-- ==== Sys2Proof/Word.lean ====
section
/-! DEFINITION. The widths of the block's words (spec/00_scope.md R5, R7): a byte is 8 bits, a register address 15 bits. -/

namespace Sys2Proof

/-- A byte of a header or a payload, 8 bits (R7). -/
abbrev Byte := BitVec 8

/-- A register address of the chip, `ADDR_WIDTH` = 15 bits (R5, R50). -/
abbrev Addr := BitVec 15

/-- The number type of the derived metrics `rssi` and `fp_level`.
DESIGN CHOICE (log 7): the spec leaves the metric type to the model (R160, D26); it is the rationals here. -/
abbrev Metric := Rat

end Sys2Proof
end

