-- ==== Sys2Proof/Machine/Bytes.lean ====
section
/-! DEFINITION. Byte lists, byte order and bit fields (spec/00_scope.md R7, spec/20_memory.md R54), and the two kinds of
table lookup by which a parameter that is a function is held as plain data. -/

namespace Sys2Proof.Machine

/-- `le(l)`: the little-endian value of a byte list, first element least significant (R7). -/
def le : List Byte → Nat
  | [] => 0
  | b :: bs => b.toNat + 256 * le bs

/-- `rep(x, n)`: the list of `n` copies of byte `x` (R7). -/
def rep (x : Byte) (n : Nat) : List Byte := List.replicate n x

/-- `v[i]` of a number `v`, as a truth value (R7). -/
def bitOf (v i : Nat) : Bool := v.testBit i

/-- The field of `width` bits of `v` whose least significant bit is bit `lsb` (R7). -/
def fieldOf (v lsb width : Nat) : Nat := (v >>> lsb) % 2 ^ width

/-- `le(q[off .. off+1])` as a 16-bit number (R41). -/
def le16At (q : List Byte) (off : Nat) : BitVec 16 := BitVec.ofNat 16 (le ((q.drop off).take 2))

/-- A list made exactly `n` long: its first `n` elements, or, where it is too short, its elements and then elements of `pad`. -/
def fit (pad : Nat → Byte) : Nat → List Byte → List Byte
  | 0, _ => []
  | n + 1, [] => pad n :: fit pad n []
  | n + 1, b :: bs => b :: fit pad n bs

/-- The value at `x` of the step function with the given thresholds and values, `below` under the first threshold. -/
def stepLookup (below : Metric) (x : Nat) : List (Nat × Metric) → Metric
  | [] => below
  | (t, v) :: rest => if t ≤ x then stepLookup v x rest else below

/-- The thresholds strictly rise above `lastT` and the values never fall below `lastV`. -/
def stepsRise (lastT : Nat) (lastV : Metric) : List (Nat × Metric) → Bool
  | [] => true
  | (t, v) :: rest => decide (lastT < t) && decide (lastV ≤ v) && stepsRise t v rest

/-- The value of a finite table at `k`: its first entry for `k`, else the table's `other` value. -/
def tableAt {α β : Type} [DecidableEq α] (k : α) (other : β) : List (α × β) → β
  | [] => other
  | (k', v) :: rest => if k = k' then v else tableAt k other rest

end Sys2Proof.Machine
end

