-- ==== Sys2Proof/Syntax.lean ====
section
/-! DEFINITION. The operations of the block as syntax: one constructor of `Instr` per row of spec/opcode_table.json, the
ChipConfig record they carry, and the requests the caller presents on the block's two ports (spec/30_encoding.md R81 to R85). -/

namespace Sys2Proof

/-- The direction of a transaction: the opcode READ or WRITE of R73, the latch `op.dir` of R21. -/
inductive Dir where
  | rd
  | wr
deriving DecidableEq, Repr, Inhabited

/-- ChipConfig (R24), with the field widths of decision D20. -/
structure ChipConfig where
  channel      : BitVec 8
  prf          : BitVec 8
  preambleLen  : BitVec 16
  pacSize      : BitVec 8
  preambleCode : BitVec 8
deriving DecidableEq, Repr, Inhabited

/-- The operations of the block, one constructor per row of the opcode table (R80, R82).
The four transport rows carry the whole operands of `read(reg, len)` and `write(reg, bytes)`; row S is the one for
`reg < 0x80`, so its address is 7 bits here although its header carries only the low 6 of them (R78). -/
inductive Instr where
  /-- Row RD.S: `read(reg, len)` with `reg < 0x80` (R103). -/
  | rdS (reg : BitVec 7) (len : Nat)
  /-- Row WR.S: `write(reg, bytes)` with `reg < 0x80` (R104). -/
  | wrS (reg : BitVec 7) (payload : List Byte)
  /-- Row RD.X: `read(reg, len)` with `reg >= 0x80` (R103). -/
  | rdX (reg : Addr) (len : Nat)
  /-- Row WR.X: `write(reg, bytes)` with `reg >= 0x80` (R104). -/
  | wrX (reg : Addr) (payload : List Byte)
  /-- Command code 0: `init()` (R120). -/
  | init
  /-- Command code 1: `configure(cfg)` (R140). -/
  | configure (cfg : ChipConfig)
  /-- Command code 2: `rxEnable(timeoutHint)`, the hint in milliseconds (R145). -/
  | rxEnable (timeoutHint : BitVec 32)
  /-- Command code 3: `isFrameReady()` (R148). -/
  | isFrameReady
  /-- Command code 4: `readFrame()` (R152). -/
  | readFrame
  /-- Command code 5: `reset()` (R163). -/
  | reset
deriving DecidableEq, Repr

/-- What the caller presents to the block: a command on the command port (`cmd.op`, `cmd.arg`, R82) or a call on the
transport port (`op.dir`, `op.reg`, `op.len`, write payload, R84). The address and the length are plain numbers here
because a caller can ask for values outside the domain of R101, which the block must refuse (R102). -/
inductive Request where
  | command (op : BitVec 3) (arg : BitVec 48)
  | read (reg : Nat) (len : Nat)
  | write (reg : Nat) (payload : List Byte)
deriving DecidableEq, Repr

end Sys2Proof
end

