-- ==== Sys2Proof/Machine/Records.lean ====
section
/-! DEFINITION. The records the block moves: RawFrame and its registers (spec/10_state.md R23), the environment's answers
(spec/20_memory.md R52), the trace's events (R44), and the response port's results (spec/60_exceptions.md R170, R171). -/

namespace Sys2Proof.Machine

/-- One answer of the environment (R8, R52): to a bus transaction, `ok` with the chip's bytes or a bus fault; to
`Acquire()`, `ok` or (read from `fault`) Unavailable. `fault k` is a fault after `k` bytes of the transaction have moved
(R52: "A fault may happen at any transaction"; the position shows only in `seq.idx`). -/
inductive Reply where
  | ok (bytes : List Byte)
  | fault (after : Nat)
deriving DecidableEq, Repr, Inhabited

/-- The derived and raw signal metrics of a frame, `rx.metrics.*` (R23). -/
structure Metrics where
  cirPwr  : BitVec 16
  fpAmpl  : BitVec 16
  fpIndex : BitVec 16
  rssi    : Metric
  fpLevel : Metric
  quality : Byte
deriving DecidableEq, Repr, Inhabited

/-- The RawFrame registers `rx.*` (R23): a buffer of `RX_BUF_CAP` = 127 bytes, the length, the timestamp, the metrics. -/
structure RxRegs where
  buf     : Vector Byte 127
  len     : BitVec 7
  ts      : BitVec 40
  metrics : Metrics
deriving DecidableEq, Repr, Inhabited

/-- The RawFrame that `readFrame` returns: only the meaningful bytes `rx.buf[0..rx.len-1]` (R23, R156). -/
structure RawFrame where
  len     : BitVec 7
  bytes   : List Byte
  ts      : BitVec 40
  metrics : Metrics
deriving DecidableEq, Repr, Inhabited

/-- The bus clock's two rates (R45, D15). -/
inductive ClkRate where
  | slow
  | fast
deriving DecidableEq, Repr, Inhabited

/-- The two control lines (R8, R45). -/
inductive Line where
  | wake
  | resetN
deriving DecidableEq, Repr, Inhabited

/-- The events of the trace (R44). A level is `true` for 1; a read's answer is `none` for a fault and a write's is `false`;
a `delay` carries the parameter's value, a lower bound and not a measured time. -/
inductive Event where
  | acquire (available : Bool)
  | clkSet (rate : ClkRate)
  | gpioSet (line : Line) (level : Bool)
  | delay (atLeast : Nat)
  | busRead (hdr : List Byte) (n : Nat) (reply : Option (List Byte))
  | busWrite (hdr : List Byte) (payload : List Byte) (ok : Bool)
deriving DecidableEq, Repr

/-- The errors an operation of the block can return (R170; the last two names of the source's taxonomy are the ScanLoop's). -/
inductive Error where
  | transportError
  | deviceNotReady
  | invalidDeviceId
  | timeout
deriving DecidableEq, Repr, Inhabited

/-- The value a successful operation returns: nothing, one bit, the bytes read, or a RawFrame (R82, R84). -/
inductive Value where
  | none
  | bit (b : Bool)
  | bytes (l : List Byte)
  | frame (f : RawFrame)
deriving DecidableEq, Repr

/-- The result of one operation on the response port: `Ok` with its value, or one error (R82, R179). -/
inductive Response where
  | ok (v : Value)
  | error (e : Error)
deriving DecidableEq, Repr

end Sys2Proof.Machine
end

