-- ==== Sys2Proof/Config.lean ====
section
/-! DEFINITION. The constants the source fixes (spec/00_scope.md R5), the record of the parameters it leaves open (R6) with
the constraints a parameter set must meet (R6, spec/93_implementation_defined.md U16), and the model's free values, which
have no body: nothing can be proved of what they are. -/

namespace Sys2Proof.Config

/-! ## The constants of R5 -/

/-- `SHORT_LIMIT`: addresses below it use the 1-byte header. -/
abbrev shortLimit : Nat := 0x80
/-- `OP_READ`. -/
abbrev opRead : Byte := 0x00
/-- `OP_WRITE`. -/
abbrev opWrite : Byte := 0x80
/-- `EXT_FLAG`, or-ed into the first byte of a 3-byte header. -/
abbrev extFlag : Byte := 0x40
/-- `SHORT_MASK`, applied to the address in a 1-byte header. -/
abbrev shortMask : Addr := 0x3F
/-- `EXT_LO_MASK`, applied to the address for the second byte of a 3-byte header. -/
abbrev extLoMask : Addr := 0x7F
/-- `EXT_HI_SHIFT`, the shift of the address for the third byte of a 3-byte header. -/
abbrev extHiShift : Nat := 7
/-- `EXT_HI_MASK`, applied to the shifted address. -/
abbrev extHiMask : Addr := 0xFF
/-- The first address outside the 15-bit space (`ADDR_WIDTH`, R50). -/
abbrev addrLimit : Nat := 0x8000
/-- `RX_BUF_CAP`. -/
abbrev rxBufCap : Nat := 127
/-- `FLEN_WIDTH`. -/
abbrev flenWidth : Nat := 11
/-- `LEN_DEV_ID`. -/
abbrev lenDevId : Nat := 4
/-- `LEN_RX_TIME`. -/
abbrev lenRxTime : Nat := 5
/-- `LEN_QBYTE`. -/
abbrev lenQByte : Nat := 1
/-- `LEN_SOFT_RESET`. -/
abbrev lenSoftReset : Nat := 1
/-- `ID_MATCH_WIDTH`: how many high-order bits of the 32-bit identity are compared. -/
abbrev idMatchWidth : Nat := 24
/-- `RSSI_OFFSET`. -/
abbrev rssiOffset : Metric := 115

/-! ## The parameters of R6 -/

/-- The two values of `ID_EXHAUST_ERR` (R6, R130, D13). -/
inductive ExhaustErr where
  | timeout
  | deviceNotReady
deriving DecidableEq, Repr, Inhabited

/-- A parameter set, unchecked: every parameter of R6 that the model uses, under the spec's name. The functions among them
are held as plain data (log 6): `encSysCfg` and `encPreamble` as a table and the payload of every other operand, `dB10` as
the thresholds and values of a step function on `x >= 1` and its value at 0. -/
structure RawParams where
  regDevId       : Addr
  regSysCfg      : Addr
  regPreambleCfg : Addr
  regRxFinfo     : Addr
  regRxBuffer    : Addr
  regRxTime      : Addr
  regRxFqual     : Addr
  regRxQbyte     : Addr
  regSysStatus   : Addr
  /-- No operation of the block uses it (R43). -/
  regDevAddrSet  : Addr
  regSoftReset   : Addr
  devIdHi24      : BitVec 24
  nIdAttempts    : Nat
  idExhaustErr   : ExhaustErr
  tWakePulse     : Nat
  tWakeLatency   : Nat
  tResetHold     : Nat
  tResetSettle   : Nat
  tIdRetry       : Nat
  tSoftResetSettle : Nat
  clkSlow        : Nat
  clkFast        : Nat
  lenSysStatus   : Nat
  frameReadyBit  : Nat
  lenRxFinfo     : Nat
  flenLsb        : Nat
  lenRxFqual     : Nat
  cirPwrOff      : Nat
  fpAmplOff      : Nat
  fpIndexOff     : Nat
  encSysCfgTable : List ((BitVec 8 × BitVec 8) × List Byte)
  encSysCfgElse  : List Byte
  encPreambleTable : List (BitVec 16 × List Byte)
  encPreambleElse  : List Byte
  rxEnableCmd    : List Byte
  softResetCmd   : Byte
  maxXferLen     : Nat
  dB10Steps      : List (Nat × Metric)
  dB10Zero       : Metric
deriving DecidableEq, Repr, Inhabited

/-- `dB10(x)` of a parameter set (R160): its value at 0, else the step function, which is 0 under its first threshold. -/
def RawParams.dB10 (p : RawParams) (x : Nat) : Metric :=
  if x = 0 then p.dB10Zero else Machine.stepLookup 0 x p.dB10Steps

/-- The constraints on `dB10` (R160): exact at the powers of ten a 16-bit operand can be, never falling on `x >= 1`. -/
def RawParams.dB10Ok (p : RawParams) : Bool :=
  Machine.stepsRise 0 0 p.dB10Steps
    && decide (p.dB10 1 = 0) && decide (p.dB10 10 = 10) && decide (p.dB10 100 = 20)
    && decide (p.dB10 1000 = 30) && decide (p.dB10 10000 = 40)

/-- The constraints a parameter set must meet (R6, U16); `REG_* < 0x8000` holds by the type of an address. -/
def RawParams.ok (p : RawParams) : Bool :=
  decide (1 ≤ p.nIdAttempts)
    && decide (p.tResetHold < p.tResetSettle)
    && decide (p.clkSlow < p.clkFast)
    && decide (1 ≤ p.lenSysStatus)
    && decide (p.frameReadyBit < 8 * p.lenSysStatus)
    && decide (p.flenLsb + flenWidth ≤ 8 * p.lenRxFinfo)
    && decide (p.cirPwrOff + 2 ≤ p.lenRxFqual)
    && decide (p.fpAmplOff + 2 ≤ p.lenRxFqual)
    && decide (p.fpIndexOff + 2 ≤ p.lenRxFqual)
    && decide (rxBufCap ≤ p.maxXferLen)
    && p.encSysCfgTable.all (fun e => !e.2.isEmpty) && !p.encSysCfgElse.isEmpty
    && p.encPreambleTable.all (fun e => !e.2.isEmpty) && !p.encPreambleElse.isEmpty
    && !p.rxEnableCmd.isEmpty
    && p.dB10Ok

/-- A parameter set that meets its constraints. One that does not is refused in the strongest way: no machine is
instantiated with it, because no value of this type holds it (U16: "the model is not instantiated"). -/
structure Params extends RawParams where
  okay : toRawParams.ok = true
deriving DecidableEq, Repr

/-! ## Free values: constants without a body (log 3, 4, 5) -/

/-- The parameter set of the machine right after power-on, unconstrained. -/
opaque freeParams : RawParams

/-- The environment's `n`-th answer where the state holds no scripted one (R52: any answer). -/
opaque freeReply : Nat → Machine.Reply

/-- The bytes of the environment's `n`-th answer beyond those it gives, where a read asks for more. -/
opaque freeByte : Nat → Nat → Byte

/-- The contents of `rx.*` after a failed `readFrame` (R159: "unspecified"; U8: any value). -/
opaque freeRx : Nat → Machine.RxRegs

/-- A parameter set that meets the constraints of R6, used only to show that there is one (see `params`). -/
def someRawParams : RawParams where
  regDevId := 0
  regSysCfg := 0
  regPreambleCfg := 0
  regRxFinfo := 0
  regRxBuffer := 0
  regRxTime := 0
  regRxFqual := 0
  regRxQbyte := 0
  regSysStatus := 0
  regDevAddrSet := 0
  regSoftReset := 0
  devIdHi24 := 0
  nIdAttempts := 1
  idExhaustErr := .timeout
  tWakePulse := 0
  tWakeLatency := 0
  tResetHold := 0
  tResetSettle := 1
  tIdRetry := 0
  tSoftResetSettle := 0
  clkSlow := 0
  clkFast := 1
  lenSysStatus := 1
  frameReadyBit := 0
  lenRxFinfo := 2
  flenLsb := 0
  lenRxFqual := 2
  cirPwrOff := 0
  fpAmplOff := 0
  fpIndexOff := 0
  encSysCfgTable := []
  encSysCfgElse := [0]
  encPreambleTable := []
  encPreambleElse := [0]
  rxEnableCmd := [0]
  softResetCmd := 0
  maxXferLen := 127
  dB10Steps := [(10, 10), (100, 20), (1000, 30), (10000, 40)]
  dB10Zero := 0

theorem someRawParams_ok : someRawParams.ok = true := by decide +kernel

/-- The machine's parameter set at power-on: the free one where it meets the constraints. Whether it does cannot be
proved, so `someRawParams` is never known to be the value: a claim about it holds of every parameter set (log 5). -/
def params : Params :=
  if h : freeParams.ok = true then ⟨freeParams, h⟩ else ⟨someRawParams, someRawParams_ok⟩

end Sys2Proof.Config
end

