-- ==== Sys2Proof/WellFormed.lean ====
section
/-! DEFINITION. When an `Instr` is one the opcode table can mean: an X row is used only for `reg >= 0x80`
(spec/30_encoding.md R72, R79, R80). Lengths are not bounded here: `MAX_XFER_LEN` is a parameter, and a longer
transfer is refused when the operation is called (spec/40_transport.md R102). -/

namespace Sys2Proof

/-- The check of the X rows' constraint `hhhhhhhh ≠ 00000000` (R80), said of the whole address. -/
def Instr.wellFormed : Instr → Bool
  | .rdS _ _ => true
  | .wrS _ _ => true
  | .rdX reg _ => decide (0x80 ≤ reg.toNat)
  | .wrX reg _ => decide (0x80 ≤ reg.toNat)
  | .init => true
  | .configure _ => true
  | .rxEnable _ => true
  | .isFrameReady => true
  | .readFrame => true
  | .reset => true

end Sys2Proof
end

