-- ==== Sys2Proof/Decode.lean ====
section
/-! DEFINITION. The encodings (spec/30_encoding.md): the address encoder (R75) and its inverse on the bytes of a header
(R74, R76, R79), the decoder and the encoder of the two ports' requests (R82 to R85, spec/40_transport.md R101, R102), and
the opcode table's own words (R80, R82). -/

namespace Sys2Proof

/-- Why bits or a call name no operation of the block. Each is a refusal and never a guess (safe: toward unprovable). -/
inductive DecodeError where
  /-- Command codes 6 and 7 (R83). -/
  | reservedCommand (op : BitVec 3)
  /-- A register address of 0x8000 or more (R102, D5). -/
  | addressOutOfRange (reg : Nat)
  /-- No header byte at all. -/
  | emptyHeader
  /-- A first byte with bit 6 set that is not followed by two more (R74). -/
  | truncatedHeader
  /-- A first byte 0x41..0x7F or 0xC1..0xFF, never produced (R79). -/
  | reservedFirstByte (h0 : Byte)
  /-- An extended header whose second byte has bit 7 set, never produced (R79). -/
  | reservedSecondByte (h1 : Byte)
  /-- An extended header whose third byte is 0, never produced (R79): its address is below 0x80. -/
  | shortAddressInLongForm
  /-- Bytes after the header where the table's word is a header alone. -/
  | bytesAfterHeader
  /-- A word wider than any row of the table, or of a width no row has. -/
  | noSuchRow
deriving DecidableEq, Repr

/-! ## The transaction header -/

/-- The opcode byte of a direction: `READ(0x00)`, `WRITE(0x80)` (R73). -/
def Dir.opcode : Dir → Byte
  | .rd => Config.opRead
  | .wr => Config.opWrite

/-- The address encoder, `encodeHeader(op, reg)` (R75): one byte below `SHORT_LIMIT`, three bytes from there on. -/
def encodeHeader (op : Byte) (reg : Addr) : List Byte :=
  if reg.toNat < Config.shortLimit then
    [op ||| (reg &&& Config.shortMask).setWidth 8]
  else
    [op ||| Config.extFlag,
     (reg &&& Config.extLoMask).setWidth 8,
     ((reg >>> Config.extHiShift) &&& Config.extHiMask).setWidth 8]

/-- The inverse of the encoder on the bytes of a header, with the bytes that follow it: bit 6 of the first byte tells the
form (R74), the address is read as R76 says (in the short form only `reg[5:0]` is there to read), and the patterns the
encoder never produces (R79) are refused by name. -/
def decodeHeader : List Byte → Except DecodeError (Dir × Addr × List Byte)
  | [] => .error .emptyHeader
  | h0 :: rest =>
    let dir : Dir := if h0.getLsbD 7 then .wr else .rd
    if h0.getLsbD 6 then
      if h0 &&& 0x3F#8 = 0#8 then
        match rest with
        | h1 :: h2 :: rest' =>
          if h1.getLsbD 7 then .error (.reservedSecondByte h1)
          else if h2 = 0#8 then .error .shortAddressInLongForm
          else .ok (dir, h1.setWidth 15 ||| (h2.setWidth 15 <<< Config.extHiShift), rest')
        | _ => .error .truncatedHeader
      else .error (.reservedFirstByte h0)
    else .ok (dir, (h0 &&& 0x3F#8).setWidth 15, rest)

/-! ## The ports -/

/-- The ChipConfig on `cmd.arg` (R82), its fields in the order R82 lists them from bit 0 up.
DESIGN CHOICE (log 9): R82 gives the fields and their order and no bit positions. -/
def configOfArg (arg : BitVec 48) : ChipConfig where
  channel      := arg.extractLsb' 0 8
  prf          := arg.extractLsb' 8 8
  preambleLen  := arg.extractLsb' 16 16
  pacSize      := arg.extractLsb' 32 8
  preambleCode := arg.extractLsb' 40 8

/-- `cmd.arg` for a ChipConfig, the inverse of `configOfArg`. -/
def argOfConfig (c : ChipConfig) : BitVec 48 :=
  c.preambleCode ++ c.pacSize ++ c.preambleLen ++ c.prf ++ c.channel

/-- The decoder of the command port (R82, R83). -/
def decodeCommand (op : BitVec 3) (arg : BitVec 48) : Except DecodeError Instr :=
  match op.toNat with
  | 0 => .ok .init
  | 1 => .ok (.configure (configOfArg arg))
  | 2 => .ok (.rxEnable (arg.setWidth 32))
  | 3 => .ok .isFrameReady
  | 4 => .ok .readFrame
  | 5 => .ok .reset
  | _ => .error (.reservedCommand op)

/-- The decoder: every request is an operation, or is refused by name. On the transport port the row is the one the
address selects (R75, R109), and an address outside the 15-bit space is refused (R102). -/
def decode : Request → Except DecodeError Instr
  | .command op arg => decodeCommand op arg
  | .read reg len =>
    if reg < Config.shortLimit then .ok (.rdS (BitVec.ofNat 7 reg) len)
    else if reg < Config.addrLimit then .ok (.rdX (BitVec.ofNat 15 reg) len)
    else .error (.addressOutOfRange reg)
  | .write reg payload =>
    if reg < Config.shortLimit then .ok (.wrS (BitVec.ofNat 7 reg) payload)
    else if reg < Config.addrLimit then .ok (.wrX (BitVec.ofNat 15 reg) payload)
    else .error (.addressOutOfRange reg)

/-- The encoder: the request that names an operation, with the command codes of R82 (decision D3) and the transport port's
tuple of R84. -/
def encode : Instr → Request
  | .rdS reg len => .read reg.toNat len
  | .wrS reg payload => .write reg.toNat payload
  | .rdX reg len => .read reg.toNat len
  | .wrX reg payload => .write reg.toNat payload
  | .init => .command 0#3 0#48
  | .configure cfg => .command 1#3 (argOfConfig cfg)
  | .rxEnable hint => .command 2#3 (hint.setWidth 48)
  | .isFrameReady => .command 3#3 0#48
  | .readFrame => .command 4#3 0#48
  | .reset => .command 5#3 0#48

/-- The header a transport operation puts on the bus, the bits its row of the opcode table holds (R80); a controller
operation is named on the command port and has no header of its own. -/
def Instr.busHeader : Instr → Option (List Byte)
  | .rdS reg _ => some (encodeHeader Config.opRead (reg.setWidth 15))
  | .wrS reg _ => some (encodeHeader Config.opWrite (reg.setWidth 15))
  | .rdX reg _ => some (encodeHeader Config.opRead reg)
  | .wrX reg _ => some (encodeHeader Config.opWrite reg)
  | .init | .configure _ | .rxEnable _ | .isFrameReady | .readFrame | .reset => none

/-! ## The opcode table's words

The table numbers a row's bits as one number: an 8-bit header, a 24-bit header whose first byte is bits 23 to 16 (R80), or a
3-bit command code (R82). The width tells the port: every word of 8 bits is a header. -/

/-- The request for a header with no operand bits: a transfer of no bytes at the address the header carries. -/
def requestOfHeader (hdr : List Byte) : Except DecodeError Request :=
  match decodeHeader hdr with
  | .error e => .error e
  | .ok (.rd, reg, []) => .ok (.read reg.toNat 0)
  | .ok (.wr, reg, []) => .ok (.write reg.toNat [])
  | .ok (_, _, _ :: _) => .error .bytesAfterHeader

/-- The request a word of the opcode table names.
DESIGN CHOICE (log 10): the operands the word has no bits for are zero. -/
def requestOfTableWord (nbits w : Nat) : Except DecodeError Request :=
  if 2 ^ nbits ≤ w then .error .noSuchRow
  else if nbits = 3 then .ok (.command (BitVec.ofNat 3 w) 0#48)
  else if nbits = 8 then requestOfHeader [BitVec.ofNat 8 w]
  else if nbits = 24 then
    requestOfHeader [BitVec.ofNat 8 (w >>> 16), BitVec.ofNat 8 (w >>> 8), BitVec.ofNat 8 w]
  else .error .noSuchRow

/-- The instruction the decoder reads from a word of the opcode table. -/
def decodeTableWord (nbits w : Nat) : Option Instr :=
  match requestOfTableWord nbits w with
  | .error _ => none
  | .ok r =>
    match decode r with
    | .ok i => some i
    | .error _ => none

end Sys2Proof
end

