-- ==== Sys2Proof/Machine/State.lean ====
section
/-! DEFINITION. The state of the block (spec/10_state.md R20 to R32, R44, R45, R47), the model's own fields that stand for
its environment (parameters, calls, the chip's answers), the reasons a step is refused, and the state after power-on. -/

namespace Sys2Proof.Machine

/-- The controller state `ctl.state` (R30). -/
inductive CtlState where
  | uninit
  | ready
  | configured
  | listening
deriving DecidableEq, Repr, Inhabited

/-- The controller's registers: `ctl.state` (R30), `ctl.cfg` and `ctl.cfg_valid` (R24). -/
structure CtlRegs where
  state    : CtlState
  cfg      : ChipConfig
  cfgValid : Bool
deriving DecidableEq, Repr, Inhabited

/-- The transport's operand latches `op.reg`, `op.len`, `op.dir` (R21). -/
structure OpRegs where
  reg : Addr
  len : Nat
  dir : Dir
deriving DecidableEq, Repr, Inhabited

/-- The sequencer's phase `seq.phase` (R31). -/
inductive Phase where
  | idle
  | header
  | payload
deriving DecidableEq, Repr, Inhabited

/-- The two values of `seq.hdr_len`, 1 and 3 (R22). -/
inductive HdrLen where
  | one
  | three
deriving DecidableEq, Repr, Inhabited

/-- `seq.hdr_len` as a number (R22). -/
def HdrLen.toNat : HdrLen → Nat
  | .one => 1
  | .three => 3

/-- The sequencer's registers `seq.phase`, `seq.hdr[0..2]`, `seq.hdr_len`, `seq.idx` (R22, R31). -/
structure SeqRegs where
  phase  : Phase
  hdr0   : Byte
  hdr1   : Byte
  hdr2   : Byte
  hdrLen : HdrLen
  idx    : Nat
deriving DecidableEq, Repr, Inhabited

/-- The levels of the wake line and the reset line, `gpio.wake` and `gpio.reset_n` (R45); `true` is 1. -/
structure GpioRegs where
  wake   : Bool
  resetN : Bool
deriving DecidableEq, Repr, Inhabited

/-- The state of the block and of its surroundings.
The first seven fields are the block's (R20). `trace` and `results` are its output (R44): the environment events and the
operations' results, oldest first. The last four are the model's own: `par`, the parameters of R6, which no operation
writes; `calls`, what the caller asks next (R11, R81); `script`, the environment's next answers (R52); and `free`, the
counter to which the free values of `Config` are applied. -/
structure State where
  ctl         : CtlRegs
  initAttempt : Nat
  op          : OpRegs
  seq         : SeqRegs
  rx          : RxRegs
  clk         : ClkRate
  gpio        : GpioRegs
  trace       : List Event
  results     : List Response
  par         : Config.Params
  calls       : List Request
  script      : List Reply
  free        : Nat
deriving DecidableEq, Repr

/-- The reasons a step stops with a fault. There is none: an error of the block is the result of an operation, after which
the block goes on (spec/60_exceptions.md R170, R176, R179), so no meaning raises one. -/
inductive Fault where
deriving DecidableEq, Repr

/-- The reasons a step is refused: the spec gives the call no meaning. Every one is safe (toward unprovable, R230). -/
inductive Refusal where
  /-- Raised by `exec` alone, for an instruction that has no meaning yet. Safe. -/
  | notModelled (mnemonic : String)
  /-- Raised by `step` when the request names no operation: a reserved command code (R83) or an address outside the
  15-bit space (R102). Safe. -/
  | noSuchOperation (why : DecodeError)
  /-- Raised by every meaning when the operation is called in a controller state that the admission table leaves out
  (R182, R183). Safe. -/
  | notAdmitted (state : CtlState)
  /-- Raised by every meaning when the sequencer is not idle, which no run reaches (R105: "A new operation is accepted
  only in `Idle`"). Safe. -/
  | busy
  /-- Raised by every meaning when a transfer of the operation is longer than `MAX_XFER_LEN` (R57, R102). Safe. -/
  | transferTooLong (len : Nat)
deriving DecidableEq, Repr

/-- The block right after power-on (R47, R200): `ctl.state = Uninit`, `ctl.cfg_valid = 0`, `seq.phase = Idle`, the trace
empty. DESIGN CHOICE (log 1): the spec calls every other register unspecified there; each is zero, and where zero is no
value of the register (`seq.hdr_len`, `bus.clk`) the first the spec names, 1 and `CLK_SLOW`. -/
def State.reset : State where
  ctl := ⟨.uninit, ⟨0, 0, 0, 0, 0⟩, false⟩
  initAttempt := 0
  op := ⟨0, 0, .rd⟩
  seq := ⟨.idle, 0, 0, 0, .one, 0⟩
  rx := ⟨Vector.replicate 127 0, 0, 0, ⟨0, 0, 0, 0, 0, 0⟩⟩
  clk := .slow
  gpio := ⟨false, false⟩
  trace := []
  results := []
  par := Config.params
  calls := []
  script := []
  free := 0

end Sys2Proof.Machine
end

