-- ==== Sys2Proof/Machine/Operands.lean ====
section
/-! DEFINITION. What the operations compute from the bytes they move and the parameters: the payload encoders (spec/00_scope.md
R6), the frame length field (spec/42_controller_runtime.md R154, R155), the RawFrame fields (R156 to R158) and the derived
metrics (R160). -/

namespace Sys2Proof.Machine

/-- `encSysCfg(channel, prf)`, the payload `configure` writes to `REG_SYS_CFG` (R6, R141). -/
def encSysCfg (p : Config.Params) (channel prf : BitVec 8) : List Byte :=
  tableAt (channel, prf) p.encSysCfgElse p.encSysCfgTable

/-- `encPreamble(preamble_len)`, the payload `configure` writes to `REG_PREAMBLE_CFG` (R6, R141). -/
def encPreamble (p : Config.Params) (preambleLen : BitVec 16) : List Byte :=
  tableAt preambleLen p.encPreambleElse p.encPreambleTable

/-- `dB10(x)` (R160). -/
def dB10 (p : Config.Params) (x : Nat) : Metric := p.dB10 x

/-- `init`'s error when every identity attempt failed, `ID_EXHAUST_ERR` (R130). -/
def exhaustError (p : Config.Params) : Error :=
  match p.idExhaustErr with
  | .timeout => .timeout
  | .deviceNotReady => .deviceNotReady

/-- The 11-bit frame length of the frame-info bytes: `(le(fi) >> FLEN_LSB) & 0x7FF` (R38, R154). -/
def frameLength (p : Config.Params) (fi : List Byte) : Nat := fieldOf (le fi) p.flenLsb Config.flenWidth

/-- The clamp to buffer capacity, `min(flen, 127)` (R155). -/
def clampLength (flen : Nat) : Nat := min flen Config.rxBufCap

/-- The payload that clears all status bits: `rep(0xFF, LEN_SYS_STATUS)` (R42, R162). -/
def statusClear (p : Config.Params) : List Byte := rep 0xFF p.lenSysStatus

/-- The metrics of a frame from the quality block and the quality byte (R158, R160, R161): the three raw fields, `rssi`
from the CIR power less `RSSI_OFFSET`, `fp_level` from the first-path amplitude. -/
def metricsOf (p : Config.Params) (q qb : List Byte) : Metrics where
  cirPwr  := le16At q p.cirPwrOff
  fpAmpl  := le16At q p.fpAmplOff
  fpIndex := le16At q p.fpIndexOff
  rssi    := dB10 p (le16At q p.cirPwrOff).toNat - Config.rssiOffset
  fpLevel := dB10 p (le16At q p.fpAmplOff).toNat
  quality := BitVec.ofNat 8 (le qb)

/-- The frame buffer with its first bytes overwritten by `data`, the rest as it was (R156). -/
def storeFrame (data : List Byte) (buf : Vector Byte 127) : Vector Byte 127 :=
  ⟨⟨(data ++ buf.toList.drop data.length).take 127⟩, by simp; omega⟩

/-- The RawFrame registers after a `readFrame` whose transactions gave `data`, `t`, `q` and `qb` (R152). -/
def loadRx (p : Config.Params) (data t q qb : List Byte) (rx : RxRegs) : RxRegs where
  buf     := storeFrame data rx.buf
  len     := BitVec.ofNat 7 data.length
  ts      := BitVec.ofNat 40 (le t)
  metrics := metricsOf p q qb

/-- The RawFrame that `rx.*` holds: the first `rx.len` bytes of the buffer and the other fields (R23). -/
def frameOf (rx : RxRegs) : RawFrame where
  len     := rx.len
  bytes   := rx.buf.toList.take rx.len.toNat
  ts      := rx.ts
  metrics := rx.metrics

end Sys2Proof.Machine
end

