-- ==== Sys2Proof/Machine/Flags.lean ====
section
/-! DEFINITION. The block has no flag register and no condition code (spec/10_state.md R33). What it decides from bytes the chip
sends is here: the frame-ready bit (R42), the identity's judgement (spec/41_controller_bringup.md R129), and the status code
of a result (spec/60_exceptions.md R171). -/

namespace Sys2Proof.Machine

/-- The frame-ready bit of the status bytes: bit `FRAME_READY_BIT` of `le(s)` (R42, R148). -/
def frameReadyIn (p : Config.Params) (status : List Byte) : Bool := bitOf (le status) p.frameReadyBit

/-- The outcome of one identity attempt (R127, R129). -/
inductive Verdict where
  | failed
  | verified
  | mismatch
deriving DecidableEq, Repr

/-- The 32-bit identity `id = le(b)` of the four bytes read (R35). -/
def identityOf (b : List Byte) : BitVec 32 := BitVec.ofNat 32 (le b)

/-- `id[31:8]`, the high-order 24 bits (R35). -/
def identityHigh (id : BitVec 32) : BitVec 24 := id.extractLsb' 8 Config.idMatchWidth

/-- The judgement of one identity attempt, in the order of R129: a transport fault (R127), an all-zero or an all-one word
fails the attempt; else the high 24 bits decide. -/
def judge (p : Config.Params) : Option (List Byte) → Verdict
  | none => .failed
  | some b =>
    if identityOf b = 0x00000000#32 ∨ identityOf b = 0xFFFFFFFF#32 then .failed
    else if identityHigh (identityOf b) = p.devIdHi24 then .verified
    else .mismatch

/-- The status code of an error on the response port (R171, D4). -/
def Error.code : Error → BitVec 3
  | .transportError => 1
  | .deviceNotReady => 2
  | .invalidDeviceId => 3
  | .timeout => 4

/-- `rsp.status` (R171). -/
def Response.status : Response → BitVec 3
  | .ok _ => 0
  | .error e => e.code

end Sys2Proof.Machine
end

