-- ==== Sys2Proof/Machine/Sequencer.lean ====
section
/-! DEFINITION. The sequencer: one transaction byte by byte, as spec/40_transport.md R105 expands `BusTxn`
(spec/10_state.md R22, R31). The controller sees a transaction as one step (R53); this file is what that step runs. -/

namespace Sys2Proof.Machine

/-- The header register written by the address encoder (R22, R75): the short form writes `seq.hdr[0]` only. -/
def SeqRegs.load (q : SeqRegs) : List Byte → SeqRegs
  | [h0] => { q with hdrLen := .one, hdr0 := h0 }
  | [h0, h1, h2] => { q with hdrLen := .three, hdr0 := h0, hdr1 := h1, hdr2 := h2 }
  | _ => q

/-- `seq.hdr[i]` (R22). -/
def SeqRegs.hdrAt (q : SeqRegs) : Nat → Byte
  | 0 => q.hdr0
  | 1 => q.hdr1
  | _ => q.hdr2

/-- The bytes of the header register, `seq.hdr[0 .. seq.hdr_len-1]` (R22). -/
def SeqRegs.header (q : SeqRegs) : List Byte :=
  match q.hdrLen with
  | .one => [q.hdr0]
  | .three => [q.hdr0, q.hdr1, q.hdr2]

/-- A transaction in progress: the sequencer's registers, the bytes the block has sent, the bytes it has received as
payload, and whether the bus has reported a fault. -/
structure Xfer where
  seq    : SeqRegs
  sent   : List Byte
  got    : List Byte
  failed : Bool
deriving DecidableEq, Repr

/-- An operation accepted in `Idle`: the header is loaded and the header phase entered (R105). -/
def Xfer.start (op : OpRegs) (q : SeqRegs) : Xfer where
  seq    := { q.load (encodeHeader op.dir.opcode op.reg) with idx := 0, phase := .header }
  sent   := []
  got    := []
  failed := false

/-- One step of the header phase: a header byte is sent, and after the last one the payload phase entered, or `Idle` at
once if there is no payload (R105). -/
def Xfer.sendHeader (op : OpRegs) (x : Xfer) : Xfer :=
  let sent := x.sent ++ [x.seq.hdrAt x.seq.idx]
  if x.seq.idx + 1 = x.seq.hdrLen.toNat then
    { x with sent := sent, seq := { x.seq with idx := 0, phase := if op.len = 0 then .idle else .payload } }
  else
    { x with sent := sent, seq := { x.seq with idx := x.seq.idx + 1 } }

/-- The index after a payload byte, and the return to `Idle` after the last one (R105). -/
def SeqRegs.bump (len : Nat) (q : SeqRegs) : SeqRegs :=
  { q with idx := q.idx + 1, phase := if q.idx + 1 = len then .idle else .payload }

/-- One step of the payload phase: a byte sent or received, by `op.dir` (R105). -/
def Xfer.movePayload (op : OpRegs) (bytes : List Byte) (b : Byte) (x : Xfer) : Xfer :=
  match op.dir with
  | .wr => { x with sent := x.sent ++ bytes[x.seq.idx]?.toList, seq := x.seq.bump op.len }
  | .rd => { x with got := x.got ++ [b], seq := x.seq.bump op.len }

/-- A bus fault: in any phase `seq.phase <- Idle` (R31, R105). -/
def Xfer.break (x : Xfer) : Xfer := { x with seq := { x.seq with phase := .idle }, failed := true }

/-- One byte time of the bus. The input is the byte the chip drives, or `none` for a fault; the byte is kept only in the
payload of a read (R51). Nothing happens in `Idle`. -/
def Xfer.tick (op : OpRegs) (bytes : List Byte) (x : Xfer) (input : Option Byte) : Xfer :=
  match x.seq.phase, input with
  | .idle, _ => x
  | _, none => x.break
  | .header, some _ => x.sendHeader op
  | .payload, some b => x.movePayload op bytes b

/-- The bus's inputs over one transaction that the environment answers with `r`: a byte of no meaning for each header byte
and each byte written (D8), the chip's bytes for a read, and a fault cuts the transaction before its end. -/
def busInputs (hdrLen : HdrLen) (op : OpRegs) (chip : List Byte) (r : Reply) : List (Option Byte) :=
  let whole : List (Option Byte) :=
    List.replicate hdrLen.toNat (some 0) ++
      match op.dir with
      | .rd => chip.map some
      | .wr => List.replicate op.len (some 0)
  match r with
  | .ok _ => whole
  | .fault k => whole.take (min k (whole.length - 1)) ++ [none]

/-- A whole transaction: the inputs taken one by one from the accepted operation (R105). -/
def runTxn (op : OpRegs) (q : SeqRegs) (bytes chip : List Byte) (r : Reply) : Xfer :=
  let x := Xfer.start op q
  (busInputs x.seq.hdrLen op chip r).foldl (Xfer.tick op bytes) x

end Sys2Proof.Machine
end

