-- ==== Sys2Proof/Machine/Ops.lean ====
section
/-! DEFINITION. The shared operations: output, the environment's primitives (spec/00_scope.md R8), the transport's `read` and
`write` (spec/40_transport.md R103, R104), the register updates of the controller, and the one way an operation ends in an
error (spec/60_exceptions.md R179). -/

namespace Sys2Proof.Machine

/-! ## Output -/

/-- Append one event to the trace (R44). -/
def State.emit (e : Event) (s : State) : State := { s with trace := s.trace ++ [e] }

/-- Return a result to the caller (R33: it is not latched anywhere; `results` is the output stream). -/
def State.respond (r : Response) (s : State) : State := { s with results := s.results ++ [r] }

/-- ERROR ENTRY (R179): the error goes to the caller as the result; nothing is saved, no vector is taken, `ctl.state` and
every other register stay, and events already in the trace stay. There is no return instruction (R180): the block is ready
for the next operation. -/
def State.takeError (e : Error) (s : State) : State := s.respond (.error e)

/-! ## Controller registers and levels -/

/-- `ctl.state <- c` (R30). -/
def State.setCtlState (c : CtlState) (s : State) : State := { s with ctl := { s.ctl with state := c } }

/-- `ctl.cfg <- cfg ; ctl.cfg_valid <- 1` (R24, R140). -/
def State.latchCfg (cfg : ChipConfig) (s : State) : State :=
  { s with ctl := { s.ctl with cfg := cfg, cfgValid := true } }

/-- `init.attempt <- n` (R32). -/
def State.setAttempt (n : Nat) (s : State) : State := { s with initAttempt := n }

/-- `rx.* <- v` (R23). -/
def State.setRx (v : RxRegs) (s : State) : State := { s with rx := v }

/-- `ClkSet(rate) ; bus.clk <- rate` (R8, R45). -/
def State.setClk (rate : ClkRate) (s : State) : State := { s.emit (.clkSet rate) with clk := rate }

/-- `GpioSet(WAKE, level) ; gpio.wake <- level` (R8, R45). -/
def State.setWake (level : Bool) (s : State) : State :=
  { s.emit (.gpioSet .wake level) with gpio := { s.gpio with wake := level } }

/-- `GpioSet(RESET_N, level) ; gpio.reset_n <- level` (R8, R45). -/
def State.setResetN (level : Bool) (s : State) : State :=
  { s.emit (.gpioSet .resetN level) with gpio := { s.gpio with resetN := level } }

/-- `Delay(T)` (R8, R185): the block has no clock, so the event is all of it. -/
def State.delay (t : Nat) (s : State) : State := s.emit (.delay t)

/-- `rx.*` after a failed `readFrame`: unspecified (R159, U8), a free value. -/
def State.loseRx (s : State) : State := { s with rx := Config.freeRx s.free, free := s.free + 1 }

/-! ## The environment's answers -/

/-- The environment's next answer: the next scripted one, or a free value where there is none (R52). -/
def State.reply (s : State) : Reply :=
  match s.script with
  | r :: _ => r
  | [] => Config.freeReply s.free

/-- The state after an answer has been taken. -/
def State.advance (s : State) : State := { s with script := s.script.tail, free := s.free + 1 }

/-- The chip's bytes in an answer, as many as were asked for (R51: `len(bytes) = n`); bytes the answer does not give are
free values. Of a faulted read none is returned (R103), but some may have moved before the fault. -/
def State.chipBytes (n : Nat) (s : State) : List Byte :=
  match s.reply with
  | .ok bytes => fit (Config.freeByte s.free) n bytes
  | .fault _ => fit (Config.freeByte s.free) n []

/-- The answer of `Acquire()`: available or not (R122). -/
def State.available (s : State) : Bool :=
  match s.reply with
  | .ok _ => true
  | .fault _ => false

/-- `Acquire()` (R8, R122). -/
def State.acquire (s : State) : State := s.advance.emit (.acquire s.available)

/-! ## The transport -/

/-- The result of a transaction: the bytes received, or `none` for a fault, in which case no byte is returned (R103). -/
def Xfer.result (x : Xfer) : Option (List Byte) := if x.failed then none else some x.got

/-- The transaction of `read(reg, n)` in the state `s` (R103). -/
def State.readTxn (reg : Addr) (n : Nat) (s : State) : Xfer :=
  runTxn ⟨reg, n, .rd⟩ s.seq [] (s.chipBytes n) s.reply

/-- The transaction of `write(reg, bytes)` in the state `s` (R104). -/
def State.writeTxn (reg : Addr) (bytes : List Byte) (s : State) : Xfer :=
  runTxn ⟨reg, bytes.length, .wr⟩ s.seq bytes [] s.reply

/-- `read(reg, n)` on the bus: the latches, the transaction and its event (R103); the result beside the new state. -/
def busRead (reg : Addr) (n : Nat) (s : State) : Option (List Byte) × State :=
  let x := s.readTxn reg n
  (x.result,
   { s.advance with
     op := ⟨reg, n, .rd⟩
     seq := x.seq
     trace := s.trace ++ [Event.busRead (encodeHeader Config.opRead reg) n x.result] })

/-- `write(reg, bytes)` on the bus: the latches, the transaction and its event (R104); whether it succeeded beside the new
state. -/
def busWrite (reg : Addr) (bytes : List Byte) (s : State) : Bool × State :=
  let x := s.writeTxn reg bytes
  (!x.failed,
   { s.advance with
     op := ⟨reg, bytes.length, .wr⟩
     seq := x.seq
     trace := s.trace ++ [Event.busWrite (encodeHeader Config.opWrite reg) bytes (!x.failed)] })

/-! ## Operations as sequences of steps -/

/-- How a part of an operation ends: with a value and the state to go on from, or with an error raised (R8: "performs none of
the operation's later steps"). -/
inductive Run (α : Type) where
  | ok (a : α) (s : State)
  | raise (e : Error) (s : State)

/-- The steps that follow: made only if the part before them ended well (R179). -/
def Run.andThen {α β : Type} (r : Run α) (k : α → State → Run β) : Run β :=
  match r with
  | .ok a s => k a s
  | .raise e s => .raise e s

/-- An error caught: the operation goes on with `a` in its place (R149). -/
def Run.recover {α : Type} (r : Run α) (a : α) : Run α :=
  match r with
  | .ok a' s => .ok a' s
  | .raise _ s => .ok a s

/-- What an error does to the state beside being raised. -/
def Run.onRaise {α : Type} (r : Run α) (f : State → State) : Run α :=
  match r with
  | .ok a s => .ok a s
  | .raise e s => .raise e (f s)

/-- The end of an operation: its result goes to the caller (R179, R82). -/
def Run.finish {α : Type} (r : Run α) (value : α → Value) : State :=
  match r with
  | .ok a s => s.respond (.ok (value a))
  | .raise e s => s.takeError e

/-- `read(reg, len)` (R103). A length above `MAX_XFER_LEN` has been refused before (`State.accept`). -/
def read (reg : Addr) (n : Nat) (s : State) : Run (List Byte) :=
  match busRead reg n s with
  | (some b, s') => .ok b s'
  | (none, s') => .raise .transportError s'

/-- `write(reg, bytes)` (R104). A length above `MAX_XFER_LEN` has been refused before (`State.accept`). -/
def write (reg : Addr) (bytes : List Byte) (s : State) : Run Unit :=
  match busWrite reg bytes s with
  | (true, s') => .ok () s'
  | (false, s') => .raise .transportError s'

end Sys2Proof.Machine
end

