-- ==== Sys2Proof/Machine/Admission.lean ====
section
/-! DEFINITION. The admission of operations by controller state (spec/60_exceptions.md R182, R183). -/

namespace Sys2Proof.Machine

/-- The admission table of R183: `true` is "run", `false` is "refused". -/
def admits : Instr → CtlState → Bool
  | .init, .uninit => true
  | .init, .ready => false
  | .init, .configured => false
  | .init, .listening => false
  | .configure _, .uninit => false
  | .configure _, .ready => true
  | .configure _, .configured => false
  | .configure _, .listening => false
  | .rxEnable _, .uninit => false
  | .rxEnable _, .ready => false
  | .rxEnable _, .configured => true
  | .rxEnable _, .listening => true
  | .isFrameReady, .uninit => false
  | .isFrameReady, .ready => false
  | .isFrameReady, .configured => false
  | .isFrameReady, .listening => true
  | .readFrame, .uninit => false
  | .readFrame, .ready => false
  | .readFrame, .configured => false
  | .readFrame, .listening => true
  | .reset, .uninit => false
  | .reset, .ready => true
  | .reset, .configured => true
  | .reset, .listening => true
  | .rdS _ _, c => decide (c ≠ .uninit)
  | .wrS _ _, c => decide (c ≠ .uninit)
  | .rdX _ _, c => decide (c ≠ .uninit)
  | .wrX _ _, c => decide (c ≠ .uninit)

/-- The lengths of an operation's transfers that can exceed `MAX_XFER_LEN` (R34, R57). The others of R34 (4, 5 and 1 bytes,
and at most 127 of the frame buffer) are within every `MAX_XFER_LEN`, which is at least 127 (R6). -/
def transferLengths (p : Config.Params) : Instr → List Nat
  | .rdS _ len => [len]
  | .wrS _ payload => [payload.length]
  | .rdX _ len => [len]
  | .wrX _ payload => [payload.length]
  | .init => []
  | .configure cfg => [(encSysCfg p cfg.channel cfg.prf).length, (encPreamble p cfg.preambleLen).length]
  | .rxEnable _ => [p.rxEnableCmd.length]
  | .isFrameReady => [p.lenSysStatus]
  | .readFrame => [p.lenRxFinfo, p.lenRxFqual, p.lenSysStatus]
  | .reset => []

/-- The first transfer of an operation that is longer than `MAX_XFER_LEN`, if there is one. -/
def tooLong (p : Config.Params) (i : Instr) : Option Nat :=
  (transferLengths p i).find? fun n => decide (p.maxXferLen < n)

/-- An operation called. It is accepted only while the sequencer is idle (R105), only in the controller states the table
admits (R183), and only if none of its transfers is too long (R57, R102); else it is refused, with no trace event, no state
change and no result (R182). That is settled before its first step: whether the block has a step never depends on the
environment (R52; log 8). `t` is the state in which the accepted operation ends. -/
def State.accept (s : State) (i : Instr) (t : State) : Host.Outcome State Fault Refusal :=
  if s.seq.phase = .idle then
    if admits i s.ctl.state then
      match tooLong s.par i with
      | none => .next t
      | some n => .refused (.transferTooLong n)
    else .refused (.notAdmitted s.ctl.state)
  else .refused .busy

end Sys2Proof.Machine
end

