-- ==== Sys2Proof/Machine/Bringup.lean ====
section
/-! DEFINITION. The meaning of `init()` (spec/41_controller_bringup.md R120 to R137): acquire, slow clock, wake sequence, reset
sequence, identity loop, fast clock. -/

namespace Sys2Proof.Machine

/-- The wake sequence (R124). -/
def wakeSequence (s : State) : State :=
  (((s.setWake false).delay s.par.tWakePulse).setWake true).delay s.par.tWakeLatency

/-- The reset sequence (R126). -/
def resetSequence (s : State) : State :=
  (((s.setResetN false).delay s.par.tResetHold).setResetN true).delay s.par.tResetSettle

/-- The steps of `init` between the acquisition and the identity loop (R123, R124, R125, R126, R127). -/
def prepareChip (s : State) : State :=
  (resetSequence (wakeSequence (s.setClk .slow))).setAttempt 0

/-- One identity attempt: `read(REG_DEV_ID, 4)`, counted; a transport error is an answer here and not raised (R127). -/
def identityAttempt (s : State) : Option (List Byte) × State :=
  let (b, s') := busRead s.par.regDevId Config.lenDevId s
  (b, s'.setAttempt (s'.initAttempt + 1))

/-- The identity loop with `left` attempts still allowed (R127 to R130): a failed attempt is followed by the retry delay
and another attempt, unless it was the last; a verified or a mismatching identity ends the loop at once. -/
def identityLoop : Nat → State → Option Error × State
  | 0, s => (some (exhaustError s.par), s)
  | left + 1, s =>
    let (b, s') := identityAttempt s
    match judge s.par b with
    | .verified => (none, s')
    | .mismatch => (some .invalidDeviceId, s')
    | .failed =>
      if left = 0 then (some (exhaustError s.par), s')
      else identityLoop left (s'.delay s.par.tIdRetry)

/-- The steps of `init` after the acquisition (R120), from the slow clock to the result (R131, R132). -/
def bringUp (s : State) : State :=
  match identityLoop s.par.nIdAttempts (prepareChip s) with
  | (none, s') => ((s'.setClk .fast).setCtlState .ready).respond (.ok .none)
  | (some e, s') => s'.takeError e

/-- `init()` once admitted (R120): unavailable resources end it before any other event (R122). -/
def runInit (s : State) : State :=
  if s.available then bringUp s.acquire else s.acquire.takeError .deviceNotReady

/-- Command code 0: `init()` (R120), admitted in `Uninit` only (R121). -/
def execInit (s : State) : Host.Outcome State Fault Refusal :=
  s.accept .init (runInit s)

end Sys2Proof.Machine
end

