-- ==== Sys2Proof/Machine/Runtime.lean ====
section
/-! DEFINITION. The meanings of the run-time operations `configure`, `rxEnable`, `isFrameReady`, `readFrame` and `reset`
(spec/42_controller_runtime.md R140 to R166). -/

namespace Sys2Proof.Machine

/-- The steps of `configure(cfg)` (R140): two writes, system configuration first (R142), then the latch and the transition. -/
def runConfigure (cfg : ChipConfig) (s : State) : Run Unit :=
  (write s.par.regSysCfg (encSysCfg s.par cfg.channel cfg.prf) s).andThen fun _ s =>
  (write s.par.regPreambleCfg (encPreamble s.par cfg.preambleLen) s).andThen fun _ s =>
  .ok () ((s.latchCfg cfg).setCtlState .configured)

/-- Command code 1: `configure(cfg)` (R140). -/
def execConfigure (cfg : ChipConfig) (s : State) : Host.Outcome State Fault Refusal :=
  s.accept (.configure cfg) ((runConfigure cfg s).finish fun _ => .none)

/-- The steps of `rxEnable` (R145). The hint takes no part in them (R146). -/
def runRxEnable (s : State) : Run Unit :=
  (write s.par.regSysCfg s.par.rxEnableCmd s).andThen fun _ s =>
  .ok () (s.setCtlState .listening)

/-- Command code 2: `rxEnable(timeoutHint)` (R145). -/
def execRxEnable (timeoutHint : BitVec 32) (s : State) : Host.Outcome State Fault Refusal :=
  s.accept (.rxEnable timeoutHint) ((runRxEnable s).finish fun _ => .none)

/-- The steps of `isFrameReady` (R148): a transport error is caught and is "not ready" (R149). -/
def runIsFrameReady (s : State) : Run Bool :=
  ((read s.par.regSysStatus s.par.lenSysStatus s).andThen fun status s =>
    .ok (frameReadyIn s.par status) s).recover false

/-- Command code 3: `isFrameReady()` (R148). -/
def execIsFrameReady (s : State) : Host.Outcome State Fault Refusal :=
  s.accept .isFrameReady ((runIsFrameReady s).finish .bit)

/-- The steps of `readFrame` (R152): five reads, the status clear, the RawFrame registers, the transition. -/
def runReadFrame (s : State) : Run RawFrame :=
  (read s.par.regRxFinfo s.par.lenRxFinfo s).andThen fun fi s =>
  (read s.par.regRxBuffer (clampLength (frameLength s.par fi)) s).andThen fun data s =>
  (read s.par.regRxTime Config.lenRxTime s).andThen fun t s =>
  (read s.par.regRxFqual s.par.lenRxFqual s).andThen fun q s =>
  (read s.par.regRxQbyte Config.lenQByte s).andThen fun qb s =>
  (write s.par.regSysStatus (statusClear s.par) s).andThen fun _ s =>
  .ok (frameOf (loadRx s.par data t q qb s.rx))
    ((s.setRx (loadRx s.par data t q qb s.rx)).setCtlState .configured)

/-- Command code 4: `readFrame()` (R152). An error leaves `rx.*` unspecified (R159). -/
def execReadFrame (s : State) : Host.Outcome State Fault Refusal :=
  s.accept .readFrame (((runReadFrame s).onRaise State.loseRx).finish .frame)

/-- The steps of `reset()` (R163): the command write, the settle delay (R165), the transition (R164). -/
def runReset (s : State) : Run Unit :=
  (write s.par.regSoftReset [s.par.softResetCmd] s).andThen fun _ s =>
  .ok () ((s.delay s.par.tSoftResetSettle).setCtlState .ready)

/-- Command code 5: `reset()` (R163). -/
def execReset (s : State) : Host.Outcome State Fault Refusal :=
  s.accept .reset ((runReset s).finish fun _ => .none)

end Sys2Proof.Machine
end

