-- ==== Sys2Proof/Machine/Transport.lean ====
section
/-! DEFINITION. The meanings of the transport's rows RD.S, WR.S, RD.X and WR.X, called directly on the transport port
(spec/40_transport.md R103, R104, R111; spec/30_encoding.md R80, R84). The row says where the address lies; the header form
follows from the address itself (R109). -/

namespace Sys2Proof.Machine

/-- RD.S: `read(reg, len)` with `reg < 0x80` (R103). -/
def execRdS (reg : BitVec 7) (len : Nat) (s : State) : Host.Outcome State Fault Refusal :=
  s.accept (.rdS reg len) ((read (reg.setWidth 15) len s).finish .bytes)

/-- WR.S: `write(reg, bytes)` with `reg < 0x80` (R104). -/
def execWrS (reg : BitVec 7) (payload : List Byte) (s : State) : Host.Outcome State Fault Refusal :=
  s.accept (.wrS reg payload) ((write (reg.setWidth 15) payload s).finish fun _ => .none)

/-- RD.X: `read(reg, len)` with `reg >= 0x80` (R103). -/
def execRdX (reg : Addr) (len : Nat) (s : State) : Host.Outcome State Fault Refusal :=
  s.accept (.rdX reg len) ((read reg len s).finish .bytes)

/-- WR.X: `write(reg, bytes)` with `reg >= 0x80` (R104). -/
def execWrX (reg : Addr) (payload : List Byte) (s : State) : Host.Outcome State Fault Refusal :=
  s.accept (.wrX reg payload) ((write reg payload s).finish fun _ => .none)

end Sys2Proof.Machine
end

