-- ==== Sys2Proof/Machine/Dispatch.lean ====
section
/-! DEFINITION. One arm per operation: each calls its meaning. -/

namespace Sys2Proof.Machine

def exec (i : Instr) (s : State) : Host.Outcome State Fault Refusal :=
  match i with
  -- the transport port
  | .rdS reg len => Sys2Proof.Machine.execRdS reg len s
  | .wrS reg payload => Sys2Proof.Machine.execWrS reg payload s
  | .rdX reg len => Sys2Proof.Machine.execRdX reg len s
  | .wrX reg payload => Sys2Proof.Machine.execWrX reg payload s
  -- the command port
  | .init => Sys2Proof.Machine.execInit s
  | .configure cfg => Sys2Proof.Machine.execConfigure cfg s
  | .rxEnable hint => Sys2Proof.Machine.execRxEnable hint s
  | .isFrameReady => Sys2Proof.Machine.execIsFrameReady s
  | .readFrame => Sys2Proof.Machine.execReadFrame s
  | .reset => Sys2Proof.Machine.execReset s

end Sys2Proof.Machine
end

