-- ==== Sys2Proof/Machine/Fetch.lean ====
section
/-! DEFINITION. How the block comes by its next operation: the caller's next request (spec/30_encoding.md R81, R84). There is no
program counter and no stored program (spec/20_memory.md R65). -/

namespace Sys2Proof.Machine

/-- The caller's next request, if it makes one, and the state in which the operation then runs. -/
def State.fetch (s : State) : Option (Request × State) :=
  match s.calls with
  | [] => none
  | r :: rest => some (r, { s with calls := rest })

/-- A request placed so that it is the next one taken. -/
def State.present (r : Request) (s : State) : State := { s with calls := r :: s.calls }

/-- The request a word of the opcode table stands for; for a word that names no operation, the reserved command code 7,
which the block refuses (R83). -/
def tableRequest (nbits w : Nat) : Request :=
  match requestOfTableWord nbits w with
  | .ok r => r
  | .error _ => .command 7#3 0#48

end Sys2Proof.Machine
end

