-- ==== Sys2Proof/Machine/Step.lean ====
section
/-! DEFINITION. One step of the block: one operation, accepted and run to its end (spec/00_scope.md R11, spec/70_reset_and_hazards.md
R222). -/

namespace Sys2Proof.Machine

/-- One step: the caller's next request is decoded and runs; a request that names no operation is refused (R83, R102);
with no request the block stays as it is. -/
def step (s : State) : Host.Outcome State Fault Refusal :=
  match s.fetch with
  | none => .next s
  | some (r, s') =>
    match decode r with
    | .ok i => exec i s'
    | .error e => .refused (.noSuchOperation e)

/-- The state with the instruction of a word of the opcode table as the caller's next request. -/
def State.withFetchWord (s : State) (nbits w : Nat) : State := s.present (tableRequest nbits w)

end Sys2Proof.Machine
end

