-- ==== Sys2Proof/Machine/ReferenceHost.lean ====
section
/-! DEFINITION. The block's side of one turn of the ScanLoop's worker cycle, the composite sequence of spec/30_encoding.md R86 and
spec/70_reset_and_hazards.md R225. The ScanLoop is outside the block (spec/00_scope.md R4); its waits and what it does with
a frame are the host's and leave no event. -/

namespace Sys2Proof.Machine

/-- The result of the last operation. -/
def State.lastResult (s : State) : Option Response := s.results.getLast?

/-- One turn: `rxEnable(100)`; on its error the turn ends; else `isFrameReady()`; not ready ends the turn; else
`readFrame()`, whose error ends the turn as its success does (R225). -/
def workerTurn (s : State) : Host.Outcome State Fault Refusal :=
  match exec (.rxEnable 100) s with
  | .next s1 =>
    match s1.lastResult with
    | some (.ok _) =>
      match exec .isFrameReady s1 with
      | .next s2 => if s2.lastResult = some (.ok (.bit true)) then exec .readFrame s2 else .next s2
      | stop => stop
    | _ => .next s1
  | stop => stop

end Sys2Proof.Machine
end

