-- ==== Sys2Proof/Safety.lean ====
section
/-! DEFINITION. What the statements say of a state and of a trace: the invariant every step keeps, the quiet the chip is left
in while its lines are pulsed, the traces of `init`, and what an operation leaves alone. -/

namespace Sys2Proof.Machine

/-! ## The state invariant -/

/-- The invariant of the block between operations: the sequencer idle (R31); the length latch within `MAX_XFER_LEN` (R21);
the retry counter within `N_ID_ATTEMPTS` (R32); once the chip has been brought up, the fast clock (R213), the wake line high
(R211) and the reset line released (R126); and in `Configured` and `Listening` a configuration latched (R24). -/
abbrev State.Inv (s : State) : Prop :=
  s.seq.phase = .idle ∧
  s.op.len ≤ s.par.maxXferLen ∧
  s.initAttempt ≤ s.par.nIdAttempts ∧
  (s.ctl.state ≠ .uninit → s.clk = .fast ∧ s.gpio.wake = true ∧ s.gpio.resetN = true) ∧
  (s.ctl.state = .configured ∨ s.ctl.state = .listening → s.ctl.cfgValid = true)

/-- Every transfer an operation makes is within `MAX_XFER_LEN` (R57). The transfers of `init` and `reset` always are. -/
abbrev LengthsFit (p : Config.Params) : Instr → Prop
  | .rdS _ n => n ≤ p.maxXferLen
  | .wrS _ l => l.length ≤ p.maxXferLen
  | .rdX _ n => n ≤ p.maxXferLen
  | .wrX _ l => l.length ≤ p.maxXferLen
  | .init => True
  | .configure cfg =>
    (encSysCfg p cfg.channel cfg.prf).length ≤ p.maxXferLen ∧ (encPreamble p cfg.preambleLen).length ≤ p.maxXferLen
  | .rxEnable _ => p.rxEnableCmd.length ≤ p.maxXferLen
  | .isFrameReady => p.lenSysStatus ≤ p.maxXferLen
  | .readFrame => p.lenRxFinfo ≤ p.maxXferLen ∧ p.lenRxFqual ≤ p.maxXferLen ∧ p.lenSysStatus ≤ p.maxXferLen
  | .reset => True

/-- The controller states in which an operation is admitted, the rows of R183 as lists. -/
def admittedStates : Instr → List CtlState
  | .init => [.uninit]
  | .configure _ => [.ready]
  | .rxEnable _ => [.configured, .listening]
  | .isFrameReady => [.listening]
  | .readFrame => [.listening]
  | .reset => [.ready, .configured, .listening]
  | .rdS _ _ => [.ready, .configured, .listening]
  | .wrS _ _ => [.ready, .configured, .listening]
  | .rdX _ _ => [.ready, .configured, .listening]
  | .wrX _ _ => [.ready, .configured, .listening]

/-! ## The environment's coming answers -/

/-- The state after `k` answers have been taken. -/
def State.later : Nat → State → State
  | 0, s => s
  | k + 1, s => later k s.advance

/-- Whether the `k`-th coming answer is an answer and not a fault (not Unavailable). -/
def State.answered (k : Nat) (s : State) : Bool := (s.later k).available

/-- What the block receives if its `k`-th coming environment call is a read of `n` bytes: those bytes, or `none` for a fault
(R51, R52). -/
def State.received (k n : Nat) (s : State) : Option (List Byte) :=
  if s.answered k then some ((s.later k).chipBytes n) else none

/-! ## Quiet lines (R212) -/

/-- Where a trace stands in the pulses of the two lines: no pulse going on; a line low, and low for its time; a line high and
not yet settled; or the rule broken: a transaction during a pulse, or a wait cut short. -/
inductive Pulse where
  | none
  | wakeLow
  | wakeHeld
  | wakeSettling
  | resetLow
  | resetHeld
  | resetSettling
  | broken
deriving DecidableEq, Repr

/-- Where one more event leads: outside a pulse everything but raising a line is allowed; inside one, only its own next
event (R124, R126, R212), and each of its waits must be as long as its parameter; the wait after the reset line's release
must also be longer than the hold. -/
def Pulse.next (p : Config.Params) : Pulse → Event → Pulse
  | .none, .gpioSet .wake false => .wakeLow
  | .none, .gpioSet .resetN false => .resetLow
  | .none, .gpioSet _ true => .broken
  | .none, _ => .none
  | .wakeLow, .delay t => if p.tWakePulse ≤ t then .wakeHeld else .broken
  | .wakeHeld, .gpioSet .wake true => .wakeSettling
  | .wakeSettling, .delay t => if p.tWakeLatency ≤ t then .none else .broken
  | .resetLow, .delay t => if p.tResetHold ≤ t then .resetHeld else .broken
  | .resetHeld, .gpioSet .resetN true => .resetSettling
  | .resetSettling, .delay t => if p.tResetSettle ≤ t ∧ p.tResetHold < t then .none else .broken
  | _, _ => .broken

/-- Where a trace ends: `none` says that every pulse in it is over, that no transaction was made during one, and that every
wait of one was at least its parameter, the wait after the reset line's release also longer than the hold (R212). -/
def pulseAfter (p : Config.Params) (trace : List Event) : Pulse := trace.foldl (Pulse.next p) .none

/-! ## The traces of init (R134) -/

/-- The events of the wake sequence (R124). -/
def wakeEvents (p : Config.Params) : List Event :=
  [.gpioSet .wake false, .delay p.tWakePulse, .gpioSet .wake true, .delay p.tWakeLatency]

/-- An event on the wake line. -/
def Event.onWakeLine : Event → Bool
  | .gpioSet .wake _ => true
  | _ => false

/-- The events of `init` between the acquisition and the first identity attempt (R123, R124, R126). -/
def bringUpEvents (p : Config.Params) : List Event :=
  [.clkSet .slow,
   .gpioSet .wake false, .delay p.tWakePulse, .gpioSet .wake true, .delay p.tWakeLatency,
   .gpioSet .resetN false, .delay p.tResetHold, .gpioSet .resetN true, .delay p.tResetSettle]

/-- The event of one identity attempt and its answer (R127). -/
def identityEvent (p : Config.Params) (b : Option (List Byte)) : Event :=
  .busRead (encodeHeader Config.opRead p.regDevId) Config.lenDevId b

/-- The events of consecutive identity attempts, with the retry delay between them and none after the last (R128). -/
def identityEvents (p : Config.Params) : List (Option (List Byte)) → List Event
  | [] => []
  | [b] => [identityEvent p b]
  | b :: b' :: rest => identityEvent p b :: .delay p.tIdRetry :: identityEvents p (b' :: rest)

/-! ## The trace of readFrame (R152) -/

/-- The length of the frame-buffer read: the 11-bit field of the frame-info bytes, clamped to 127 (R154, R155). -/
def bufferReadLength (s : State) : Nat :=
  min ((le ((s.received 0 s.par.lenRxFinfo).getD []) >>> s.par.flenLsb) % 2048) 127

/-- The six transactions of `readFrame` in order, each with its answer (R152); on a fault only those up to the faulted one
are made (R159). -/
def readFrameEvents (s : State) : List Event :=
  let rd := fun (reg : Addr) (k n : Nat) => Event.busRead (encodeHeader Config.opRead reg) n (s.received k n)
  [rd s.par.regRxFinfo 0 s.par.lenRxFinfo,
   rd s.par.regRxBuffer 1 (bufferReadLength s),
   rd s.par.regRxTime 2 5,
   rd s.par.regRxFqual 3 s.par.lenRxFqual,
   rd s.par.regRxQbyte 4 1,
   .busWrite (encodeHeader Config.opWrite s.par.regSysStatus) (List.replicate s.par.lenSysStatus 0xFF#8) (s.answered 5)]

/-! ## What an operation leaves alone -/

/-- The registers that only the transport writes are the only ones of the block that differ: the operand latches, the header
register and the sequencer (R103, R104: "Block state written: the operand latches and `seq.*` only"). -/
abbrev SameButTransport (s t : State) : Prop :=
  t.ctl = s.ctl ∧ t.initAttempt = s.initAttempt ∧ t.rx = s.rx ∧ t.clk = s.clk ∧ t.gpio = s.gpio ∧
  t.par = s.par ∧ t.calls = s.calls

/-- As `SameButTransport`, and `ctl.state` may differ too. -/
abbrev SameButCtlState (s t : State) : Prop :=
  t.ctl.cfg = s.ctl.cfg ∧ t.ctl.cfgValid = s.ctl.cfgValid ∧ t.initAttempt = s.initAttempt ∧ t.rx = s.rx ∧
  t.clk = s.clk ∧ t.gpio = s.gpio ∧ t.par = s.par ∧ t.calls = s.calls

/-- The transitions of the controller (R30), made by an operation that succeeds. -/
def transition : Instr → CtlState → CtlState
  | .init, _ => .ready
  | .configure _, _ => .configured
  | .rxEnable _, _ => .listening
  | .isFrameReady, c => c
  | .readFrame, _ => .configured
  | .reset, _ => .ready
  | .rdS _ _, c => c
  | .wrS _ _, c => c
  | .rdX _ _, c => c
  | .wrX _ _, c => c

end Sys2Proof.Machine
end

