-- ==== Sys2Proof/Certificates/Slice0/Obligations.lean ====
section
/-! DEFINITION. The statements about the block, for the provers. A statement that rests on a sentence the spec marks as derived or
decided, or on the model's own choice, says so. -/

section
open Sys2Proof Sys2Proof.Machine

/-! ## Encodings -/

/-- R71, R72: the header of a short address is the one byte `W 0 reg[5:0]`; the header of any other address is the three
bytes `W 1 000000`, `0 reg[6:0]`, `reg[14:7]`. -/
def Obligations.HeaderBitsFollowTheAddress : Prop :=
  ∀ (d : Dir) (reg : Addr),
    (reg.toNat < 0x80 → ∃ h0 : Byte, encodeHeader d.opcode reg = [h0] ∧
      h0.getLsbD 7 = decide (d = .wr) ∧ h0.getLsbD 6 = false ∧ h0.extractLsb' 0 6 = reg.extractLsb' 0 6) ∧
    (0x80 ≤ reg.toNat → ∃ h0 h1 h2 : Byte, encodeHeader d.opcode reg = [h0, h1, h2] ∧
      h0.getLsbD 7 = decide (d = .wr) ∧ h0.getLsbD 6 = true ∧ h0.extractLsb' 0 6 = 0#6 ∧
      h0 = (match d with | .rd => 0x40#8 | .wr => 0xC0#8) ∧
      h1.getLsbD 7 = false ∧ h1.extractLsb' 0 7 = reg.extractLsb' 0 7 ∧ h2 = reg.extractLsb' 7 8)

/-- 30_encoding.md section 2, a sentence the spec derives from its encoder: addresses `0x40..0x7F` share their headers with
`0x00..0x3F`, and nothing else is shared. -/
def Obligations.ShortFormAliasesAndNothingElse : Prop :=
  ∀ d : Dir,
    (∀ reg : Addr, 0x40 ≤ reg.toNat → reg.toNat ≤ 0x7F →
      encodeHeader d.opcode reg = encodeHeader d.opcode (reg - 0x40#15)) ∧
    (∀ reg reg' : Addr, (reg.toNat ≤ 0x3F ∨ 0x80 ≤ reg.toNat) → (reg'.toNat ≤ 0x3F ∨ 0x80 ≤ reg'.toNat) →
      encodeHeader d.opcode reg = encodeHeader d.opcode reg' → reg = reg')

/-- 30_encoding.md section 3, patterns the spec derives: no header starts with 0x41..0x7F or 0xC1..0xFF, and in a 3-byte
header the second byte has bit 7 clear and the third is not 0. -/
def Obligations.HeaderPatternsNeverProduced : Prop :=
  ∀ (d : Dir) (reg : Addr) (h0 : Byte) (rest : List Byte), encodeHeader d.opcode reg = h0 :: rest →
    ¬ (0x41 ≤ h0.toNat ∧ h0.toNat ≤ 0x7F) ∧ ¬ (0xC1 ≤ h0.toNat ∧ h0.toNat ≤ 0xFF) ∧
    (rest = [] ∨ ∃ h1 h2 : Byte, rest = [h1, h2] ∧ h1.getLsbD 7 = false ∧ h2 ≠ 0#8)

/-- 30_encoding.md sections 1 and 2, the decoder the spec derives: the header is told from the bytes that follow it, the
direction and a long address come back whole, and of a short address `reg[5:0]`. -/
def Obligations.HeaderDecodesToDirectionAndAddress : Prop :=
  ∀ (d : Dir) (reg : Addr) (payload : List Byte),
    decodeHeader (encodeHeader d.opcode reg ++ payload) =
      .ok (d, (if reg.toNat < 0x80 then reg &&& 0x3F#15 else reg), payload)

/-- Decoding is right on bytes: what `decodeHeader` accepts is exactly the header of the address it answers. -/
def Obligations.AcceptedHeadersAreEncodings : Prop :=
  ∀ (bytes : List Byte) (d : Dir) (reg : Addr) (payload : List Byte),
    decodeHeader bytes = .ok (d, reg, payload) → bytes = encodeHeader d.opcode reg ++ payload

/-- Decode and encode agree: every well-formed operation, with every operand at every value, is the one its request names.
The command codes are the spec's decision D3 and the layout of `cmd.arg` the model's choice (log 9). -/
def Obligations.DecodeOfEncodeIsTheOperation : Prop :=
  ∀ i : Instr, i.wellFormed = true → decode (encode i) = .ok i

/-- Whatever the decoder accepts is well-formed, and a transport request comes back from the encoder as it was. -/
def Obligations.DecodedOperationsAreWellFormed : Prop :=
  ∀ (r : Request) (i : Instr), decode r = .ok i →
    i.wellFormed = true ∧ decode (encode i) = .ok i ∧ ((∀ op arg, r ≠ .command op arg) → encode i = r)

/-- 30_encoding.md section 5 (decision D3): command codes 6 and 7 are refused, whatever stands on `cmd.arg`. -/
def Obligations.ReservedCommandCodesRefused : Prop :=
  ∀ (s : State) (op : BitVec 3) (arg : BitVec 48) (rest : List Request),
    s.calls = .command op arg :: rest → 6 ≤ op.toNat → step s = .refused (.noSuchOperation (.reservedCommand op))

/-- The opcode table's words, written out from 30_encoding.md sections 4 and 5, decode to the operations they stand for. The
command codes are the spec's decision D3. That a bare word is read as a request at all, and that the operands it has no bits
for are zero (no bytes, a ChipConfig of zeros, a hint of zero), is the model's choice (log 10). -/
def Obligations.TableWordsDecode : Prop :=
  decodeTableWord 8 0b00111111 = some (.rdS 0x3F 0) ∧
  decodeTableWord 8 0b00000011 = some (.rdS 0x03 0) ∧
  decodeTableWord 8 0b10100001 = some (.wrS 0x21 []) ∧
  decodeTableWord 24 0b01000000_00010000_00000001 = some (.rdX 0x0090 0) ∧
  decodeTableWord 24 0b11000000_00110100_00100100 = some (.wrX 0x1234 []) ∧
  decodeTableWord 3 0b000 = some .init ∧
  decodeTableWord 3 0b001 = some (.configure ⟨0, 0, 0, 0, 0⟩) ∧
  decodeTableWord 3 0b010 = some (.rxEnable 0) ∧
  decodeTableWord 3 0b011 = some .isFrameReady ∧
  decodeTableWord 3 0b100 = some .readFrame ∧
  decodeTableWord 3 0b101 = some .reset

/-! ## A step -/

/-- A step takes the caller's next request, and runs the operation it decodes to in the state without that request; with no
request it changes nothing (log 2). -/
def Obligations.StepRunsTheDecodedOperation : Prop :=
  (∀ (s : State) (r : Request) (rest : List Request) (i : Instr),
    s.calls = r :: rest → decode r = .ok i → step s = exec i { s with calls := rest }) ∧
  (∀ (s : State) (r : Request) (rest : List Request) (e : DecodeError),
    s.calls = r :: rest → decode r = .error e → step s = .refused (.noSuchOperation e)) ∧
  (∀ s : State, s.calls = [] → step s = .next s)

/-- A word of the opcode table placed as the next request runs as the operation it decodes to. -/
def Obligations.FetchWordRunsItsOperation : Prop :=
  ∀ (s : State) (nbits w : Nat) (i : Instr), decodeTableWord nbits w = some i →
    step (s.withFetchWord nbits w) = exec i s

/-- 70_reset_and_hazards.md section 1 (the spec's decisions D18 and D30): power-on leaves `ctl.state = Uninit`, `ctl.cfg_valid = 0`,
`seq.phase = Idle` and an empty trace, and no operation but `init` is admitted there; `init` is. -/
def Obligations.PowerOnAdmitsOnlyInit : Prop :=
  State.reset.ctl.state = .uninit ∧ State.reset.ctl.cfgValid = false ∧ State.reset.seq.phase = .idle ∧
  State.reset.trace = [] ∧ (∃ t, exec .init State.reset = .next t) ∧
  ∀ i : Instr, i ≠ .init → exec i State.reset = .refused (.notAdmitted .uninit)

/-- 60_exceptions.md section 6 (decision D18) and 20_memory.md R52: with the sequencer idle, an operation called in a state
the table leaves out is refused; in a state it admits, with its transfers within `MAX_XFER_LEN`, it completes, whatever
the environment answers. -/
def Obligations.AdmissionDecidesWhatRuns : Prop :=
  ∀ (i : Instr) (s : State), s.seq.phase = .idle →
    (s.ctl.state ∉ admittedStates i → exec i s = .refused (.notAdmitted s.ctl.state)) ∧
    (s.ctl.state ∈ admittedStates i → LengthsFit s.par i → ∃ t, exec i s = .next t)

/-- 40_transport.md section 1 (decisions D5, D6): an address outside the 15-bit space is refused, and so is a transfer longer
than `MAX_XFER_LEN`, with no transaction made. The last clause is about every operation that makes transfers, `configure`,
`rxEnable`, `isFrameReady` and `readFrame` included: where one of them would be too long, the operation is refused whole, which
is the model's reading (log 8). -/
def Obligations.TransfersOutsideTheDomainRefused : Prop :=
  (∀ (s : State) (reg n : Nat) (rest : List Request), s.calls = .read reg n :: rest → 0x8000 ≤ reg →
    step s = .refused (.noSuchOperation (.addressOutOfRange reg))) ∧
  (∀ (s : State) (reg : Nat) (l : List Byte) (rest : List Request), s.calls = .write reg l :: rest → 0x8000 ≤ reg →
    step s = .refused (.noSuchOperation (.addressOutOfRange reg))) ∧
  (∀ (s : State) (n : Nat), s.seq.phase = .idle → s.ctl.state ≠ .uninit → s.par.maxXferLen < n →
    (∀ reg, exec (.rdS reg n) s = .refused (.transferTooLong n)) ∧
    (∀ reg, exec (.rdX reg n) s = .refused (.transferTooLong n))) ∧
  (∀ (s : State) (l : List Byte), s.seq.phase = .idle → s.ctl.state ≠ .uninit → s.par.maxXferLen < l.length →
    (∀ reg, exec (.wrS reg l) s = .refused (.transferTooLong l.length)) ∧
    (∀ reg, exec (.wrX reg l) s = .refused (.transferTooLong l.length))) ∧
  (∀ (s : State) (i : Instr), s.seq.phase = .idle → s.ctl.state ∈ admittedStates i → ¬ LengthsFit s.par i →
    ∃ n, s.par.maxXferLen < n ∧ exec i s = .refused (.transferTooLong n))

/-! ## The transport -/

/-- 40_transport.md section 2: a `read` that the bus answers is one transaction; it returns the bytes received, as many as
asked for, writes the operand latches and `seq.*`, and nothing else. The clauses on `op`, `seq.idx`
and the header register rest on log 18 and on the expansion the spec derives in section 4; the spec gives these registers no
meaning between operations. An `rdX` with an address below 0x80 is no row of the table; that it runs is log 16. -/
def Obligations.ReadReturnsTheBytesReceived : Prop :=
  ∀ (s : State) (n : Nat) (bytes : List Byte),
    s.seq.phase = .idle → s.ctl.state ≠ .uninit → n ≤ s.par.maxXferLen → s.received 0 n = some bytes →
    bytes.length = n ∧
    (∀ reg : BitVec 7, ∃ t, exec (.rdS reg n) s = .next t ∧
      t.results = s.results ++ [Response.ok (.bytes bytes)] ∧
      t.trace = s.trace ++ [Event.busRead (encodeHeader 0x00 (reg.setWidth 15)) n (some bytes)] ∧
      t.op = ⟨reg.setWidth 15, n, .rd⟩ ∧ t.seq.phase = .idle ∧ t.seq.idx = n ∧
      t.seq.header = encodeHeader 0x00 (reg.setWidth 15) ∧ SameButTransport s t) ∧
    (∀ reg : Addr, ∃ t, exec (.rdX reg n) s = .next t ∧
      t.results = s.results ++ [Response.ok (.bytes bytes)] ∧
      t.trace = s.trace ++ [Event.busRead (encodeHeader 0x00 reg) n (some bytes)] ∧
      t.op = ⟨reg, n, .rd⟩ ∧ t.seq.phase = .idle ∧ t.seq.idx = n ∧
      t.seq.header = encodeHeader 0x00 reg ∧ SameButTransport s t)

/-- 40_transport.md section 3: a `write` that the bus accepts is one transaction of the header and the payload; it returns
no data, writes the operand latches and `seq.*`, and nothing else. The clauses on `op`, `seq.idx`
and the header register rest on log 18 and on the expansion the spec derives in section 4; the spec gives these registers no
meaning between operations. An `wrX` with an address below 0x80 is no row of the table; that it runs is log 16. -/
def Obligations.WriteSendsThePayload : Prop :=
  ∀ (s : State) (l : List Byte),
    s.seq.phase = .idle → s.ctl.state ≠ .uninit → l.length ≤ s.par.maxXferLen → s.answered 0 = true →
    (∀ reg : BitVec 7, ∃ t, exec (.wrS reg l) s = .next t ∧
      t.results = s.results ++ [Response.ok .none] ∧
      t.trace = s.trace ++ [Event.busWrite (encodeHeader 0x80 (reg.setWidth 15)) l true] ∧
      t.op = ⟨reg.setWidth 15, l.length, .wr⟩ ∧ t.seq.phase = .idle ∧ t.seq.idx = l.length ∧
      t.seq.header = encodeHeader 0x80 (reg.setWidth 15) ∧ SameButTransport s t) ∧
    (∀ reg : Addr, ∃ t, exec (.wrX reg l) s = .next t ∧
      t.results = s.results ++ [Response.ok .none] ∧
      t.trace = s.trace ++ [Event.busWrite (encodeHeader 0x80 reg) l true] ∧
      t.op = ⟨reg, l.length, .wr⟩ ∧ t.seq.phase = .idle ∧ t.seq.idx = l.length ∧
      t.seq.header = encodeHeader 0x80 reg ∧ SameButTransport s t)

/-- 40_transport.md section 5 (R106, R107): a bus fault in a direct `read` or `write` is one attempt and the result
`TransportError`, whatever bytes moved; no state of the controller changes, and the sequencer is idle again. An `rdX` or `wrX`
with an address below 0x80 is no row of the table; that it runs is the model's choice (log 16). -/
def Obligations.TransportFaultIsReturnedAndNotRetried : Prop :=
  ∀ (s : State) (i : Instr) (n : Nat) (l : List Byte),
    s.seq.phase = .idle → s.ctl.state ≠ .uninit → n ≤ s.par.maxXferLen → l.length ≤ s.par.maxXferLen →
    s.answered 0 = false →
    (∃ reg, i = .rdS reg n) ∨ (∃ reg, i = .rdX reg n) ∨ (∃ reg, i = .wrS reg l) ∨ (∃ reg, i = .wrX reg l) →
    ∃ t hdr, exec i s = .next t ∧ i.busHeader = some hdr ∧
      t.results = s.results ++ [Response.error .transportError] ∧
      (t.trace = s.trace ++ [Event.busRead hdr n none] ∨ t.trace = s.trace ++ [Event.busWrite hdr l false]) ∧
      SameButTransport s t ∧ t.seq.phase = .idle

/-- R109: the header form depends on the address alone: 1 byte below 0x80 and 3 from there on, for either direction, and in a
transaction of any length and any outcome, in any state. -/
def Obligations.HeaderFormDependsOnTheAddressAlone : Prop :=
  (∀ (d : Dir) (reg : Addr), (encodeHeader d.opcode reg).length = if reg.toNat < 0x80 then 1 else 3) ∧
  (∀ (s : State) (reg : Addr) (n : Nat), ∃ hdr r, (busRead reg n s).2.trace = s.trace ++ [Event.busRead hdr n r] ∧
    hdr.length = if reg.toNat < 0x80 then 1 else 3) ∧
  (∀ (s : State) (reg : Addr) (l : List Byte), ∃ hdr ok, (busWrite reg l s).2.trace = s.trace ++ [Event.busWrite hdr l ok] ∧
    hdr.length = if reg.toNat < 0x80 then 1 else 3)

/-- 40_transport.md section 4, an expansion the spec derives (refinement of the one-step transaction): after `m` byte times of
a write the block has sent the first `m` bytes of header and payload, and it is idle when all have been sent and not before. -/
def Obligations.WriteSequencerSendsBytesInOrder : Prop :=
  ∀ (reg : Addr) (q : SeqRegs) (bytes got : List Byte) (m : Nat),
    let op : OpRegs := ⟨reg, bytes.length, .wr⟩
    let start := Xfer.start op q
    let whole := encodeHeader 0x80 reg ++ bytes
    m ≤ whole.length →
    let x := ((busInputs start.seq.hdrLen op [] (.ok got)).take m).foldl (Xfer.tick op bytes) start
    x.sent = whole.take m ∧ x.got = [] ∧ x.failed = false ∧ (x.seq.phase = .idle ↔ m = whole.length)

/-- 40_transport.md section 4, an expansion the spec derives: after `m` byte times of a read the block has sent the first `m`
bytes of the header and has received the chip's bytes of the times after it, and it is idle when the last has come and not
before. -/
def Obligations.ReadSequencerReceivesBytesInOrder : Prop :=
  ∀ (reg : Addr) (q : SeqRegs) (chip got : List Byte) (m : Nat),
    let op : OpRegs := ⟨reg, chip.length, .rd⟩
    let start := Xfer.start op q
    let hdr := encodeHeader 0x00 reg
    m ≤ hdr.length + chip.length →
    let x := ((busInputs start.seq.hdrLen op chip (.ok got)).take m).foldl (Xfer.tick op []) start
    x.sent = hdr.take m ∧ x.got = chip.take (m - hdr.length) ∧ x.failed = false ∧
      (x.seq.phase = .idle ↔ m = hdr.length + chip.length)

/-! ## Bring-up -/

/-- 41_controller_bringup.md section 2, resource acquisition: if the resources are unavailable, `init` returns
`DeviceNotReady` with no other event, and no register of the block changes. -/
def Obligations.InitWithoutResources : Prop :=
  ∀ s : State, s.seq.phase = .idle → s.ctl.state = .uninit → s.answered 0 = false →
    ∃ t, exec .init s = .next t ∧ t.results = s.results ++ [Response.error .deviceNotReady] ∧
      t.trace = s.trace ++ [Event.acquire false] ∧ t.op = s.op ∧ t.seq = s.seq ∧ SameButTransport s t

/-- 41_controller_bringup.md section 2, judging the identity read (decisions D9, D12), in the spec's order: a bus fault fails the
attempt; an all-zero or an all-one word fails it, whatever constant is expected; then the high 24 bits decide, and the low
8 do not. -/
def Obligations.IdentityIsJudgedInOrder : Prop :=
  ∀ p : Config.Params,
    judge p none = .failed ∧
    ∀ b0 b1 b2 b3 : Byte,
      (b0 = 0#8 ∧ b1 = 0#8 ∧ b2 = 0#8 ∧ b3 = 0#8 → judge p (some [b0, b1, b2, b3]) = .failed) ∧
      (b0 = 0xFF#8 ∧ b1 = 0xFF#8 ∧ b2 = 0xFF#8 ∧ b3 = 0xFF#8 → judge p (some [b0, b1, b2, b3]) = .failed) ∧
      (¬ (b0 = 0#8 ∧ b1 = 0#8 ∧ b2 = 0#8 ∧ b3 = 0#8) →
        ¬ (b0 = 0xFF#8 ∧ b1 = 0xFF#8 ∧ b2 = 0xFF#8 ∧ b3 = 0xFF#8) →
        judge p (some [b0, b1, b2, b3]) = if p.devIdHi24 = b3 ++ b2 ++ b1 then .verified else .mismatch)

/-- 41_controller_bringup.md section 3, the trace the spec derives: after any number of failed attempts within
`N_ID_ATTEMPTS`, a verified identity ends `init` in `Ready` at the fast clock; the trace is exact. -/
def Obligations.InitSucceedsOnAVerifiedIdentity : Prop :=
  ∀ (s : State) (bad : List (Option (List Byte))) (good : List Byte),
    s.seq.phase = .idle → s.ctl.state = .uninit → s.answered 0 = true → bad.length < s.par.nIdAttempts →
    (∀ k b, bad[k]? = some b → s.received (k + 1) 4 = b ∧ judge s.par b = .failed) →
    s.received (bad.length + 1) 4 = some good → judge s.par (some good) = .verified →
    ∃ t, exec .init s = .next t ∧ t.results = s.results ++ [Response.ok .none] ∧
      t.trace = s.trace ++ [Event.acquire true] ++ bringUpEvents s.par ++ identityEvents s.par (bad ++ [some good]) ++
        [Event.clkSet .fast] ∧
      t.ctl = ⟨.ready, s.ctl.cfg, s.ctl.cfgValid⟩ ∧ t.initAttempt = bad.length + 1 ∧ t.clk = .fast ∧
      t.gpio = ⟨true, true⟩ ∧ t.rx = s.rx ∧ t.par = s.par ∧ t.calls = s.calls ∧ t.seq.phase = .idle

/-- 41_controller_bringup.md section 2, exhaustion (decisions D13, D14): when every one of the `N_ID_ATTEMPTS` attempts fails,
`init` returns `ID_EXHAUST_ERR`, with a retry delay between attempts and none after the last, and stays in `Uninit` at the
slow clock. -/
def Obligations.InitGivesUpAfterItsAttempts : Prop :=
  ∀ (s : State) (bad : List (Option (List Byte))),
    s.seq.phase = .idle → s.ctl.state = .uninit → s.answered 0 = true → bad.length = s.par.nIdAttempts →
    (∀ k b, bad[k]? = some b → s.received (k + 1) 4 = b ∧ judge s.par b = .failed) →
    ∃ t, exec .init s = .next t ∧
      t.results = s.results ++
        [Response.error (match s.par.idExhaustErr with | .timeout => .timeout | .deviceNotReady => .deviceNotReady)] ∧
      t.trace = s.trace ++ [Event.acquire true] ++ bringUpEvents s.par ++ identityEvents s.par bad ∧
      t.ctl = s.ctl ∧ t.initAttempt = s.par.nIdAttempts ∧ t.clk = .slow ∧ t.gpio = ⟨true, true⟩ ∧
      t.rx = s.rx ∧ t.par = s.par ∧ t.calls = s.calls ∧ t.seq.phase = .idle

/-- 60_exceptions.md section 1 (R174, on the little-endian reading of decision D9 and the retries of D12): an identity that is neither all-zero nor all-one and whose high-order 24 bits differ ends `init` at once with
`InvalidDeviceId`, the remaining attempts not used; and no other operation returns that error. -/
def Obligations.InitRejectsAForeignIdentityAtOnce : Prop :=
  (∀ (s : State) (bad : List (Option (List Byte))) (b : List Byte),
    s.seq.phase = .idle → s.ctl.state = .uninit → s.answered 0 = true → bad.length < s.par.nIdAttempts →
    (∀ k x, bad[k]? = some x → s.received (k + 1) 4 = x ∧ judge s.par x = .failed) →
    s.received (bad.length + 1) 4 = some b →
    BitVec.ofNat 32 (le b) ≠ 0x00000000#32 → BitVec.ofNat 32 (le b) ≠ 0xFFFFFFFF#32 →
    (BitVec.ofNat 32 (le b)).extractLsb' 8 24 ≠ s.par.devIdHi24 →
    ∃ t, exec .init s = .next t ∧ t.results = s.results ++ [Response.error .invalidDeviceId] ∧
      t.trace = s.trace ++ [Event.acquire true] ++ bringUpEvents s.par ++ identityEvents s.par (bad ++ [some b]) ∧
      t.ctl = s.ctl ∧ t.initAttempt = bad.length + 1 ∧ t.clk = .slow ∧ t.gpio = ⟨true, true⟩ ∧
      t.rx = s.rx ∧ t.par = s.par ∧ t.calls = s.calls) ∧
  (∀ (i : Instr) (s t : State), exec i s = .next t → t.results = s.results ++ [Response.error .invalidDeviceId] → i = .init)

/-- 41_controller_bringup.md section 3 (R135, on the little-endian reading of decision D9): `init` ends in `Ready` only if the last identity read has the expected high-order 24 bits and is neither all-zero nor
all-one; a read all-zero or all-one as the last event yields the exhaustion error, never `Ready`. -/
def Obligations.ReadyOnlyAfterAMatchingIdentity : Prop :=
  ∀ s t : State, exec .init s = .next t →
    (t.ctl.state = .ready → ∃ pre b,
      t.trace = s.trace ++ pre ++ [identityEvent s.par (some b), Event.clkSet .fast] ∧
      (BitVec.ofNat 32 (le b)).extractLsb' 8 24 = s.par.devIdHi24 ∧
      BitVec.ofNat 32 (le b) ≠ 0x00000000#32 ∧ BitVec.ofNat 32 (le b) ≠ 0xFFFFFFFF#32) ∧
    (∀ pre b, t.trace = s.trace ++ pre ++ [identityEvent s.par (some b)] →
      (BitVec.ofNat 32 (le b) = 0x00000000#32 ∨ BitVec.ofNat 32 (le b) = 0xFFFFFFFF#32) →
      (t.results = s.results ++ [Response.error .deviceNotReady] ∨ t.results = s.results ++ [Response.error .timeout]) ∧
      t.ctl.state ≠ .ready)

/-- R123, R125, R136: once the resources are acquired, `init` sets the slow clock, then runs the wake sequence whole, then the
reset sequence; after that it makes no event but identity reads at that clock, retry delays, and, as the last, the fast
clock: it reads, writes, configures and clears nothing else. Without the resources it makes no event after the query. -/
def Obligations.InitMakesOnlyItsOwnEvents : Prop :=
  ∀ s t : State, exec .init s = .next t →
    (s.answered 0 = false → t.trace = s.trace ++ [Event.acquire false]) ∧
    (s.answered 0 = true →
      ∃ reads last, t.trace = s.trace ++ [Event.acquire true] ++ bringUpEvents s.par ++ reads ++ last ∧
        (∀ e ∈ reads, e = .delay s.par.tIdRetry ∨ ∃ b, e = identityEvent s.par b) ∧
        (last = [] ∨ last = [.clkSet .fast]))

/-- 41_controller_bringup.md sections 1 and 3: `init` always returns; its result is `Ok` or one of `DeviceNotReady`, `Timeout` and
`InvalidDeviceId`, never `TransportError`; the retry counter is within its bound; and the configuration latch and the RawFrame
registers are not touched. -/
def Obligations.InitAlwaysReturnsOneOfItsResults : Prop :=
  ∀ s : State, s.seq.phase = .idle → s.ctl.state = .uninit →
    ∃ t r, exec .init s = .next t ∧ t.results = s.results ++ [r] ∧
      (r = .ok .none ∨ r = .error .deviceNotReady ∨ r = .error .timeout ∨ r = .error .invalidDeviceId) ∧
      (s.answered 0 = true → 1 ≤ t.initAttempt ∧ t.initAttempt ≤ s.par.nIdAttempts) ∧
      t.ctl.cfg = s.ctl.cfg ∧ t.ctl.cfgValid = s.ctl.cfgValid ∧ t.rx = s.rx ∧ t.par = s.par ∧ t.calls = s.calls

/-! ## Run-time operations -/

/-- 42_controller_runtime.md section 1 (R140): `configure` makes its two writes in order, latches the record and enters
`Configured`; a transport error in either ends it with no later write and no transition; outside `Ready` it is not admitted.
The order of the writes is decision D19 (R142), the refusal decision D18 (R182), both followed as log 19 says. -/
def Obligations.ConfigureWritesThenLatches : Prop :=
  (∀ (s : State) (cfg : ChipConfig),
    s.seq.phase = .idle → s.ctl.state = .ready → LengthsFit s.par (.configure cfg) →
    let w1 := fun ok => Event.busWrite (encodeHeader 0x80 s.par.regSysCfg) (encSysCfg s.par cfg.channel cfg.prf) ok
    let w2 := fun ok => Event.busWrite (encodeHeader 0x80 s.par.regPreambleCfg) (encPreamble s.par cfg.preambleLen) ok
    ∃ t, exec (.configure cfg) s = .next t ∧
      (s.answered 0 = true → s.answered 1 = true →
        t.results = s.results ++ [Response.ok .none] ∧ t.trace = s.trace ++ [w1 true, w2 true] ∧
        t.ctl = ⟨.configured, cfg, true⟩) ∧
      (s.answered 0 = true → s.answered 1 = false →
        t.results = s.results ++ [Response.error .transportError] ∧ t.trace = s.trace ++ [w1 true, w2 false] ∧ t.ctl = s.ctl) ∧
      (s.answered 0 = false →
        t.results = s.results ++ [Response.error .transportError] ∧ t.trace = s.trace ++ [w1 false] ∧ t.ctl = s.ctl) ∧
      t.initAttempt = s.initAttempt ∧ t.rx = s.rx ∧ t.clk = s.clk ∧ t.gpio = s.gpio ∧ t.par = s.par ∧
      t.calls = s.calls ∧ t.seq.phase = .idle) ∧
  (∀ (s : State) (cfg : ChipConfig), s.seq.phase = .idle → s.ctl.state ≠ .ready →
    exec (.configure cfg) s = .refused (.notAdmitted s.ctl.state))

/-- 42_controller_runtime.md section 1 (decision D19): the chunk size and the preamble code reach no payload: two records that
agree in channel, PRF and preamble length have the same trace and the same result. -/
def Obligations.UnsentConfigFieldsReachNoPayload : Prop :=
  ∀ (s t t' : State) (cfg cfg' : ChipConfig),
    cfg.channel = cfg'.channel → cfg.prf = cfg'.prf → cfg.preambleLen = cfg'.preambleLen →
    exec (.configure cfg) s = .next t → exec (.configure cfg') s = .next t' →
    t.trace = t'.trace ∧ t.results = t'.results ∧ t.ctl.state = t'.ctl.state

/-- 42_controller_runtime.md section 2 (decision D21 for the error): `rxEnable`, from `Configured` and from `Listening`, writes
`RX_ENABLE_CMD` to the system-configuration register and enters `Listening`; on a transport error the state stays. -/
def Obligations.RxEnableWritesAndListens : Prop :=
  ∀ (s : State) (hint : BitVec 32),
    s.seq.phase = .idle → s.ctl.state = .configured ∨ s.ctl.state = .listening →
    LengthsFit s.par (.rxEnable hint) →
    ∃ t, exec (.rxEnable hint) s = .next t ∧
      t.trace = s.trace ++ [Event.busWrite (encodeHeader 0x80 s.par.regSysCfg) s.par.rxEnableCmd (s.answered 0)] ∧
      (s.answered 0 = true → t.results = s.results ++ [Response.ok .none] ∧ t.ctl.state = .listening) ∧
      (s.answered 0 = false → t.results = s.results ++ [Response.error .transportError] ∧ t.ctl.state = s.ctl.state) ∧
      SameButCtlState s t ∧ t.seq.phase = .idle

/-- R146: the hint reaches no payload, no register, no delay and no branch: `rxEnable` is the same operation for every hint,
and it returns when its one write has ended. -/
def Obligations.TimeoutHintIsAdvisory : Prop :=
  (∀ (s : State) (hint hint' : BitVec 32), exec (.rxEnable hint) s = exec (.rxEnable hint') s) ∧
  (∀ (s t : State) (hint : BitVec 32), exec (.rxEnable hint) s = .next t →
    t.trace = s.trace ++ [Event.busWrite (encodeHeader 0x80 s.par.regSysCfg) s.par.rxEnableCmd (s.answered 0)])

/-- 42_controller_runtime.md section 3 (R148, R149): `isFrameReady` makes one read of the status register and returns the
frame-ready bit, or false if the bus faults; it returns no error and leaves every register but the transport's as it was. That
the bit is bit `FRAME_READY_BIT` of the little-endian value is decisions D22 (R42) and D9 (R54), followed as log 19 says. -/
def Obligations.IsFrameReadyReturnsTheBit : Prop :=
  ∀ s : State, s.seq.phase = .idle → s.ctl.state = .listening → LengthsFit s.par .isFrameReady →
    ∃ t, exec .isFrameReady s = .next t ∧
      t.results = s.results ++ [Response.ok (.bit (match s.received 0 s.par.lenSysStatus with
        | some status => (le status).testBit s.par.frameReadyBit
        | none => false))] ∧
      t.trace = s.trace ++ [Event.busRead (encodeHeader 0x00 s.par.regSysStatus) s.par.lenSysStatus
        (s.received 0 s.par.lenSysStatus)] ∧
      SameButTransport s t ∧ t.seq.phase = .idle

/-- 42_controller_runtime.md section 3 (R150): `isFrameReady` looks at no other bit of the status register: two answers that
agree in the frame-ready bit have the same result; and it clears nothing: its one event is a read. That the bit is bit
`FRAME_READY_BIT` of the little-endian value is decisions D22 (R42) and D9 (R54), followed as log 19 says. -/
def Obligations.OnlyTheFrameReadyBitIsTested : Prop :=
  ∀ (s t t' : State) (status status' : List Byte) (rest : List Reply),
    status.length = s.par.lenSysStatus → status'.length = s.par.lenSysStatus →
    (le status).testBit s.par.frameReadyBit = (le status').testBit s.par.frameReadyBit →
    exec .isFrameReady { s with script := .ok status :: rest } = .next t →
    exec .isFrameReady { s with script := .ok status' :: rest } = .next t' →
    t.results = t'.results ∧
      t.trace = s.trace ++ [Event.busRead (encodeHeader 0x00 s.par.regSysStatus) s.par.lenSysStatus (some status)]

/-- 42_controller_runtime.md section 4 whole: `readFrame` with all six transactions answered: its events, its result, every
RawFrame register, and the transition to `Configured`; the buffer beyond the frame and every other register stay. The length
field rests on decisions D23 and D9, the raw fields on D25 and D9, the metrics on D26, the length of the status clear on D29
(log 19), the number type and the exact difference on log 7, and what the result carries on log 20. -/
def Obligations.ReadFrameDeliversTheFrame : Prop :=
  ∀ (s : State) (fi data t5 q qb : List Byte),
    s.seq.phase = .idle → s.ctl.state = .listening → LengthsFit s.par .readFrame →
    s.received 0 s.par.lenRxFinfo = some fi →
    s.received 1 (min ((le fi >>> s.par.flenLsb) % 2048) 127) = some data →
    s.received 2 5 = some t5 → s.received 3 s.par.lenRxFqual = some q → s.received 4 1 = some qb →
    s.answered 5 = true →
    ∃ t, exec .readFrame s = .next t ∧ t.trace = s.trace ++ readFrameEvents s ∧
      t.results = s.results ++ [Response.ok (.frame ⟨t.rx.len, data, t.rx.ts, t.rx.metrics⟩)] ∧
      t.ctl = ⟨.configured, s.ctl.cfg, s.ctl.cfgValid⟩ ∧
      t.rx.len.toNat = min ((le fi >>> s.par.flenLsb) % 2048) 127 ∧ t.rx.len.toNat ≤ 127 ∧
      t.rx.buf.toList = data ++ s.rx.buf.toList.drop t.rx.len.toNat ∧
      t.rx.ts.toNat = le t5 ∧
      t.rx.metrics.cirPwr.toNat = le ((q.drop s.par.cirPwrOff).take 2) ∧
      t.rx.metrics.fpAmpl.toNat = le ((q.drop s.par.fpAmplOff).take 2) ∧
      t.rx.metrics.fpIndex.toNat = le ((q.drop s.par.fpIndexOff).take 2) ∧
      t.rx.metrics.rssi = dB10 s.par t.rx.metrics.cirPwr.toNat - 115 ∧
      t.rx.metrics.fpLevel = dB10 s.par t.rx.metrics.fpAmpl.toNat ∧
      qb = [t.rx.metrics.quality] ∧
      t.initAttempt = s.initAttempt ∧ t.clk = s.clk ∧ t.gpio = s.gpio ∧ t.par = s.par ∧ t.calls = s.calls ∧
      t.seq.phase = .idle

/-- 42_controller_runtime.md section 4 (decision D24): a fault in transaction `k` of `readFrame` ends it there with
`TransportError`: no later transaction is made, so the status is not cleared unless all five reads succeeded, and the state
stays `Listening`. What `rx.*` then holds is open (log 3). -/
def Obligations.ReadFrameStopsAtTheFirstFault : Prop :=
  ∀ (s : State) (k : Nat),
    s.seq.phase = .idle → s.ctl.state = .listening → LengthsFit s.par .readFrame →
    k < 6 → (∀ j, j < k → s.answered j = true) → s.answered k = false →
    ∃ t, exec .readFrame s = .next t ∧ t.results = s.results ++ [Response.error .transportError] ∧
      t.trace = s.trace ++ (readFrameEvents s).take (k + 1) ∧ t.ctl = s.ctl ∧
      t.initAttempt = s.initAttempt ∧ t.clk = s.clk ∧ t.gpio = s.gpio ∧ t.par = s.par ∧ t.calls = s.calls ∧
      t.seq.phase = .idle

/-- 70_reset_and_hazards.md section 2 (R219): clamping is silent: two frame-info answers that report 127 bytes or more, the
rest of the answers being the same, have the same result, so a 127-byte frame cannot be told from a longer one; and where a
frame is returned, the RawFrame registers are the same too. The reported length is read by decisions D23 and D9 (log 19). -/
def Obligations.ClampingIsSilent : Prop :=
  ∀ (s t t' : State) (fi fi' : List Byte) (rest : List Reply),
    fi.length = s.par.lenRxFinfo → fi'.length = s.par.lenRxFinfo →
    127 ≤ (le fi >>> s.par.flenLsb) % 2048 → 127 ≤ (le fi' >>> s.par.flenLsb) % 2048 →
    exec .readFrame { s with script := .ok fi :: rest } = .next t →
    exec .readFrame { s with script := .ok fi' :: rest } = .next t' →
    t.results = t'.results ∧ t.ctl = t'.ctl ∧
      ∀ f, t.results = s.results ++ [Response.ok (.frame f)] → t.rx = t'.rx

/-- 42_controller_runtime.md section 4, derived metrics (decision D26): `dB10` is exact at the powers of ten and does not fall
on `x >= 1`. The number type and how the function is held are the model's (logs 6 and 7). -/
def Obligations.DecibelsExactAndNonDecreasing : Prop :=
  ∀ p : Config.Params,
    dB10 p 1 = 0 ∧ dB10 p 10 = 10 ∧ dB10 p 100 = 20 ∧ dB10 p 1000 = 30 ∧ dB10 p 10000 = 40 ∧
    ∀ x y : Nat, 1 ≤ x → x ≤ y → dB10 p x ≤ dB10 p y

/-- 42_controller_runtime.md section 5 (decision D27): `reset`, from every state but `Uninit`, writes the command byte, waits
the settle delay and enters `Ready`; if the write faults, there is no delay and no transition; the configuration latch, the
lines and the clock stay. -/
def Obligations.SoftResetWritesWaitsAndReturnsToReady : Prop :=
  ∀ s : State, s.seq.phase = .idle → s.ctl.state ≠ .uninit →
    let w := fun ok => Event.busWrite (encodeHeader 0x80 s.par.regSoftReset) [s.par.softResetCmd] ok
    ∃ t, exec .reset s = .next t ∧
      (s.answered 0 = true → t.results = s.results ++ [Response.ok .none] ∧
        t.trace = s.trace ++ [w true, .delay s.par.tSoftResetSettle] ∧ t.ctl.state = .ready) ∧
      (s.answered 0 = false → t.results = s.results ++ [Response.error .transportError] ∧
        t.trace = s.trace ++ [w false] ∧ t.ctl.state = s.ctl.state) ∧
      SameButCtlState s t ∧ t.seq.phase = .idle

/-! ## The whole machine -/

/-- 10_state.md section 3 and 60_exceptions.md section 4: every operation returns exactly one result and only adds events to the
trace; on an error the controller's registers are as they were ("Failure never advances the state"); on success `ctl.state`
is the one of the transition table. -/
def Obligations.OnlySuccessMovesTheController : Prop :=
  ∀ (i : Instr) (s t : State), exec i s = .next t →
    ∃ r events, t.results = s.results ++ [r] ∧ t.trace = s.trace ++ events ∧
      (∀ e, r = .error e → t.ctl = s.ctl) ∧
      (∀ v, r = .ok v → t.ctl.state = transition i s.ctl.state)

/-- 10_state.md sections 2 and 6: each register has its writer: the RawFrame registers only `readFrame`, the configuration latch
only `configure`, the retry counter, the clock and the lines only `init`; the parameters none. -/
def Obligations.EachRegisterHasItsWriter : Prop :=
  ∀ (i : Instr) (s t : State), exec i s = .next t →
    (i ≠ .readFrame → t.rx = s.rx) ∧
    ((∀ cfg, i ≠ .configure cfg) → t.ctl.cfg = s.ctl.cfg ∧ t.ctl.cfgValid = s.ctl.cfgValid) ∧
    (i ≠ .init → t.initAttempt = s.initAttempt ∧ t.clk = s.clk ∧ t.gpio = s.gpio) ∧
    t.par = s.par ∧ t.calls = s.calls

/-- R176: no error is sticky: what an operation does depends on no earlier result, and after an operation that ended in an error
the next admitted one is accepted. -/
def Obligations.NoErrorIsSticky : Prop :=
  (∀ (i : Instr) (s : State) (earlier : List Response),
    (∀ t, exec i s = .next t → ∃ r, t.results = s.results ++ [r] ∧
      exec i { s with results := earlier } = .next { t with results := earlier ++ [r] }) ∧
    (∀ why, exec i s = .refused why → exec i { s with results := earlier } = .refused why)) ∧
  (∀ (i j : Instr) (s t : State) (e : Error), exec i s = .next t → t.results = s.results ++ [Response.error e] →
    t.ctl.state ∈ admittedStates j → LengthsFit t.par j → ∃ u, exec j t = .next u)

/-- 60_exceptions.md section 1: `DeviceNotReady`, `InvalidDeviceId` and `Timeout` come from `init` only; `TransportError` comes
from neither `init` nor `isFrameReady`, which returns no error at all. -/
def Obligations.EachErrorHasItsOperations : Prop :=
  ∀ (i : Instr) (s t : State) (e : Error), exec i s = .next t → t.results = s.results ++ [Response.error e] →
    (e ≠ .transportError → i = .init) ∧ (e = .transportError → i ≠ .init) ∧ i ≠ .isFrameReady

/-- Every step keeps the block's invariant: the sequencer idle, the latches within their bounds, and after bring-up the fast
clock, the wake line high and the reset line released, and a latched configuration where there must be one. -/
def Obligations.EveryStepKeepsTheBlockInOrder : Prop :=
  ∀ s t : State, s.Inv → step s = .next t → t.Inv

/-- The power-on state meets the invariant, and no pulse is going on in its trace. The values of the registers the spec leaves
unspecified are the model's (log 1). -/
def Obligations.PowerOnIsInOrder : Prop :=
  State.reset.Inv ∧ pulseAfter State.reset.par State.reset.trace = .none

/-- R212: no transaction is made from the fall of a line to the end of the wait after its rise; each of those waits is at least
its parameter, for the reset line `T_RESET_HOLD` and then `T_RESET_SETTLE`, which is longer; every step keeps that of the
trace. -/
def Obligations.NoTransactionDuringAPulse : Prop :=
  ∀ s t : State, pulseAfter s.par s.trace = .none → step s = .next t → pulseAfter t.par t.trace = .none

/-- 70_reset_and_hazards.md section 2, a rule the spec derives: every run-time operation runs at the fast clock: it starts and
ends there and makes no clock event. -/
def Obligations.RunTimeOperationsKeepTheFastClock : Prop :=
  ∀ (i : Instr) (s t : State), s.Inv → i ≠ .init → exec i s = .next t →
    s.clk = .fast ∧ t.clk = .fast ∧ ∃ events, t.trace = s.trace ++ events ∧ ∀ rate, Event.clkSet rate ∉ events

/-- R211: the wake line stays high after `init`: an `init` that acquired its resources drives the line in its one wake sequence
and nowhere else and leaves it high; one that did not leaves the line alone, and so does every other operation. -/
def Obligations.WakeLineStaysHighAfterInit : Prop :=
  (∀ s t : State, exec .init s = .next t →
    (s.answered 0 = true → t.gpio.wake = true ∧ ∃ before after, t.trace = s.trace ++ before ++ wakeEvents s.par ++ after ∧
      (∀ e ∈ before, e.onWakeLine = false) ∧ (∀ e ∈ after, e.onWakeLine = false)) ∧
    (s.answered 0 = false → t.gpio.wake = s.gpio.wake ∧ ∃ events, t.trace = s.trace ++ events ∧
      ∀ e ∈ events, e.onWakeLine = false)) ∧
  (∀ (i : Instr) (s t : State), i ≠ .init → exec i s = .next t →
    t.gpio.wake = s.gpio.wake ∧ ∃ events, t.trace = s.trace ++ events ∧ ∀ e ∈ events, e.onWakeLine = false)

/-- 30_encoding.md section 6 and 70_reset_and_hazards.md section 3: every call of the worker cycle is admitted where the cycle
makes it: from `Configured` or `Listening` a turn completes and ends in one of the two. -/
def Obligations.WorkerCycleIsAlwaysAdmitted : Prop :=
  ∀ s : State, s.seq.phase = .idle → s.ctl.state = .configured ∨ s.ctl.state = .listening →
    LengthsFit s.par (.rxEnable 100) → LengthsFit s.par .readFrame →
    ∃ t, workerTurn s = .next t ∧ (t.ctl.state = .configured ∨ t.ctl.state = .listening) ∧ t.ctl.cfg = s.ctl.cfg

/-- 00_scope.md section 4 and 93_implementation_defined.md U16: what every parameter set of the machine meets; one that does
not is no parameter set. -/
def Obligations.ParameterSetsMeetTheirConstraints : Prop :=
  ∀ p : Config.Params,
    1 ≤ p.nIdAttempts ∧ p.tResetHold < p.tResetSettle ∧ p.clkSlow < p.clkFast ∧
    1 ≤ p.lenSysStatus ∧ p.frameReadyBit < 8 * p.lenSysStatus ∧ 2 ≤ p.lenRxFinfo ∧ p.flenLsb + 11 ≤ 8 * p.lenRxFinfo ∧
    p.cirPwrOff + 2 ≤ p.lenRxFqual ∧ p.fpAmplOff + 2 ≤ p.lenRxFqual ∧ p.fpIndexOff + 2 ≤ p.lenRxFqual ∧
    127 ≤ p.maxXferLen ∧ p.rxEnableCmd ≠ [] ∧
    (∀ channel prf, encSysCfg p channel prf ≠ []) ∧ (∀ len, encPreamble p len ≠ [])

/-- 60_exceptions.md section 1 (decision D4): the status codes of the response port. -/
def Obligations.StatusCodes : Prop :=
  (∀ v, (Response.ok v).status = 0#3) ∧ (Response.error .transportError).status = 1#3 ∧
  (Response.error .deviceNotReady).status = 2#3 ∧ (Response.error .invalidDeviceId).status = 3#3 ∧
  (Response.error .timeout).status = 4#3

/-- 30_encoding.md section 4, the four header rows by match and mask over every word of their width: a word of 8 bits under
`00aaaaaa` is RD.S and under `10aaaaaa` WR.S, at the address `aaaaaa`; a word of 24 bits under the X rows' patterns with
`hhhhhhhh` not zero is RD.X or WR.X, at the address `hhhhhhhh lllllll`; no other word of these widths is a row's. That the
operands the word has no bits for are zero is the model's choice (log 10). -/
def Obligations.HeaderRowsByMatchAndMask : Prop :=
  (∀ w : Nat, w < 2 ^ 8 →
    (w &&& 0xC0 = 0x00 → decodeTableWord 8 w = some (.rdS (BitVec.ofNat 7 (w % 64)) 0)) ∧
    (w &&& 0xC0 = 0x80 → decodeTableWord 8 w = some (.wrS (BitVec.ofNat 7 (w % 64)) [])) ∧
    (w &&& 0xC0 ≠ 0x00 → w &&& 0xC0 ≠ 0x80 → decodeTableWord 8 w = none)) ∧
  (∀ w : Nat, w < 2 ^ 24 →
    let reg : Addr := BitVec.ofNat 15 (128 * (w % 256) + w / 256 % 128)
    (w &&& 0xFF8000 = 0x400000 → w % 256 ≠ 0 → decodeTableWord 24 w = some (.rdX reg 0)) ∧
    (w &&& 0xFF8000 = 0xC00000 → w % 256 ≠ 0 → decodeTableWord 24 w = some (.wrX reg [])) ∧
    (w &&& 0xFF8000 ≠ 0x400000 → w &&& 0xFF8000 ≠ 0xC00000 → decodeTableWord 24 w = none) ∧
    (w % 256 = 0 → decodeTableWord 24 w = none))

end
end

