-- ==== Sys2Proof/Laws/Bytes.lean ====
section
/-! SUPPORT. The small lemmas of the byte-list operations, of the clamp and of the frame buffer. -/

namespace Sys2Proof.Machine

@[simp] theorem fit_length (pad : Nat → Byte) (n : Nat) (l : List Byte) : (fit pad n l).length = n := by
  induction n generalizing l with
  | zero => rfl
  | succ n ih => cases l <;> simp [fit, ih]

/-- An answer of the length asked for is taken as it is. -/
theorem fit_of_length (pad : Nat → Byte) (l : List Byte) : fit pad l.length l = l := by
  induction l with
  | nil => rfl
  | cons b l ih => simp [fit, ih]

theorem le_lt (l : List Byte) : le l < 256 ^ l.length := by
  induction l with
  | nil => simp [le]
  | cons b l ih =>
    have := b.isLt
    simp only [le, List.length_cons, Nat.pow_succ]
    omega

theorem fieldOf_lt (v lsb width : Nat) : fieldOf v lsb width < 2 ^ width := Nat.mod_lt _ (Nat.two_pow_pos _)

theorem frameLength_lt (p : Config.Params) (fi : List Byte) : frameLength p fi < 2048 := fieldOf_lt _ _ _

theorem clampLength_le (n : Nat) : clampLength n ≤ 127 := Nat.min_le_right _ _

@[simp] theorem statusClear_length (p : Config.Params) : (statusClear p).length = p.lenSysStatus := by
  simp [statusClear, rep]

/-- The frame buffer after a store: the data, then what it held before. -/
theorem storeFrame_toList (data : List Byte) (buf : Vector Byte 127) (h : data.length ≤ 127) :
    (storeFrame data buf).toList = data ++ buf.toList.drop data.length := by
  show (data ++ buf.toList.drop data.length).take 127 = _
  apply List.take_of_length_le
  simp
  omega

theorem storeFrame_take (data : List Byte) (buf : Vector Byte 127) (h : data.length ≤ 127) :
    (storeFrame data buf).toList.take data.length = data := by
  rw [storeFrame_toList data buf h, List.take_left]

theorem toNat_ofNat_length (data : List Byte) (h : data.length ≤ 127) :
    (BitVec.ofNat 7 data.length).toNat = data.length := by
  simp only [BitVec.toNat_ofNat]
  exact Nat.mod_eq_of_lt (by omega)

/-- The RawFrame returned has the bytes that were read. -/
theorem frameOf_loadRx (p : Config.Params) (data t q qb : List Byte) (rx : RxRegs) (h : data.length ≤ 127) :
    frameOf (loadRx p data t q qb rx) =
      ⟨BitVec.ofNat 7 data.length, data, BitVec.ofNat 40 (le t), metricsOf p q qb⟩ := by
  simp only [frameOf, loadRx, toNat_ofNat_length data h, storeFrame_take data rx.buf h]

end Sys2Proof.Machine
end

