-- ==== Sys2Proof/Laws/Sequencer.lean ====
section
/-! SUPPORT. The sequencer in closed form: a transaction that the bus answers sends exactly the header and the payload and ends
in `Idle`; one that faults ends in `Idle` and failed. -/

namespace Sys2Proof.Machine

theorem SeqRegs.load_header (q : SeqRegs) (op : Byte) (reg : Addr) :
    (q.load (encodeHeader op reg)).header = encodeHeader op reg := by
  unfold encodeHeader
  split <;> rfl

theorem SeqRegs.header_length (q : SeqRegs) : q.header.length = q.hdrLen.toNat := by
  unfold header
  split <;> simp_all [HdrLen.toNat]

/-- The header register and its length, which a transaction does not change once it is loaded. -/
abbrev SeqRegs.SameHeader (q r : SeqRegs) : Prop :=
  r.hdr0 = q.hdr0 ∧ r.hdr1 = q.hdr1 ∧ r.hdr2 = q.hdr2 ∧ r.hdrLen = q.hdrLen

/-! ## The header phase -/

theorem headerPhase (op : OpRegs) (bytes : List Byte) (x : Xfer) (hp : x.seq.phase = .header) (hi : x.seq.idx = 0)
    (b : Byte) :
    (List.replicate x.seq.hdrLen.toNat (some b)).foldl (Xfer.tick op bytes) x =
      { x with
        sent := x.sent ++ x.seq.header
        seq := { x.seq with idx := 0, phase := if op.len = 0 then .idle else .payload } } := by
  obtain ⟨⟨phase, h0, h1, h2, hl, idx⟩, sent, got, failed⟩ := x
  simp only at hp hi
  subst hp hi
  cases hl <;>
    simp [HdrLen.toNat, List.replicate, Xfer.tick, Xfer.sendHeader, SeqRegs.header, SeqRegs.hdrAt]

/-! ## The payload phase -/

theorem writePhase (reg : Addr) (bytes : List Byte) (b : Byte) :
    ∀ (n : Nat) (x : Xfer), x.seq.phase = .payload → x.seq.idx + (n + 1) = bytes.length →
      (List.replicate (n + 1) (some b)).foldl (Xfer.tick ⟨reg, bytes.length, .wr⟩ bytes) x =
        { x with
          sent := x.sent ++ bytes.drop x.seq.idx
          seq := { x.seq with idx := bytes.length, phase := .idle } } := by
  intro n
  induction n with
  | zero =>
    intro x hp hl
    have hlt : x.seq.idx < bytes.length := by omega
    have hdrop : bytes.drop x.seq.idx = [bytes[x.seq.idx]] := by
      rw [List.drop_eq_getElem_cons hlt, List.drop_eq_nil_of_le (by omega)]
    simp [List.replicate, Xfer.tick, hp, Xfer.movePayload, SeqRegs.bump, hl, hdrop, List.getElem?_eq_getElem hlt]
  | succ n ih =>
    intro x hp hl
    have hlt : x.seq.idx < bytes.length := by omega
    have hne : ¬ x.seq.idx + 1 = bytes.length := by omega
    rw [List.replicate_succ, List.foldl_cons]
    simp only [Xfer.tick, hp, Xfer.movePayload, SeqRegs.bump, if_neg hne]
    rw [ih _ rfl (by simp only; omega)]
    simp [List.getElem?_eq_getElem hlt, List.append_assoc]

theorem readPhase (reg : Addr) (len : Nat) (bytes : List Byte) :
    ∀ (chip : List Byte) (x : Xfer), chip ≠ [] → x.seq.phase = .payload → x.seq.idx + chip.length = len →
      (chip.map some).foldl (Xfer.tick ⟨reg, len, .rd⟩ bytes) x =
        { x with got := x.got ++ chip, seq := { x.seq with idx := len, phase := .idle } } := by
  intro chip
  induction chip with
  | nil => intro x h; exact absurd rfl h
  | cons c chip ih =>
    intro x _ hp hl
    simp only [List.length_cons] at hl
    rw [List.map_cons, List.foldl_cons]
    simp only [Xfer.tick, hp, Xfer.movePayload, SeqRegs.bump]
    cases chip with
    | nil =>
      have : x.seq.idx + 1 = len := by simpa using hl
      simp [this]
    | cons c' chip =>
      have hne : ¬ x.seq.idx + 1 = len := by simp only [List.length_cons] at hl; omega
      rw [if_neg hne, ih _ (by simp) rfl (by simp only; omega)]
      simp [List.append_assoc]

/-! ## A whole transaction that the bus answers -/

theorem runTxn_write_ok (reg : Addr) (q : SeqRegs) (bytes chip got : List Byte) :
    runTxn ⟨reg, bytes.length, .wr⟩ q bytes chip (.ok got) =
      { seq := { q.load (encodeHeader Config.opWrite reg) with idx := bytes.length, phase := .idle }
        sent := encodeHeader Config.opWrite reg ++ bytes
        got := []
        failed := false } := by
  simp only [runTxn, busInputs, List.foldl_append]
  rw [headerPhase _ _ _ (by rfl) (by rfl)]
  have hh : (Xfer.start ⟨reg, bytes.length, .wr⟩ q).seq.header = encodeHeader Config.opWrite reg :=
    (SeqRegs.load_header q Config.opWrite reg)
  rw [hh]
  cases hb : bytes.length with
  | zero =>
    obtain rfl : bytes = [] := List.eq_nil_of_length_eq_zero hb
    simp [Xfer.start, Dir.opcode]
  | succ n =>
    have := writePhase reg bytes 0 n
      { Xfer.start ⟨reg, bytes.length, .wr⟩ q with
        sent := encodeHeader Config.opWrite reg
        seq := { (Xfer.start ⟨reg, bytes.length, .wr⟩ q).seq with idx := 0, phase := .payload } } rfl (by simp [hb])
    simp only [hb] at this
    simpa [Xfer.start, Dir.opcode] using this

theorem runTxn_read_ok (reg : Addr) (q : SeqRegs) (bytes chip got : List Byte) :
    runTxn ⟨reg, chip.length, .rd⟩ q bytes chip (.ok got) =
      { seq := { q.load (encodeHeader Config.opRead reg) with idx := chip.length, phase := .idle }
        sent := encodeHeader Config.opRead reg
        got := chip
        failed := false } := by
  simp only [runTxn, busInputs, List.foldl_append]
  rw [headerPhase _ _ _ (by rfl) (by rfl)]
  have hh : (Xfer.start ⟨reg, chip.length, .rd⟩ q).seq.header = encodeHeader Config.opRead reg :=
    (SeqRegs.load_header q Config.opRead reg)
  rw [hh]
  cases chip with
  | nil => simp [Xfer.start, Dir.opcode]
  | cons c chip =>
    have := readPhase reg (c :: chip).length bytes (c :: chip)
      { Xfer.start ⟨reg, (c :: chip).length, .rd⟩ q with
        sent := encodeHeader Config.opRead reg
        seq := { (Xfer.start ⟨reg, (c :: chip).length, .rd⟩ q).seq with idx := 0, phase := .payload } }
      (by simp) rfl (by simp)
    simpa [Xfer.start, Dir.opcode] using this

/-! ## Progress, and a transaction that faults -/

/-- How many byte times a transaction still takes. -/
def Xfer.remaining (op : OpRegs) (x : Xfer) : Nat :=
  match x.seq.phase with
  | .idle => 0
  | .header => (x.seq.hdrLen.toNat - x.seq.idx) + op.len
  | .payload => op.len - x.seq.idx

/-- The index is within its phase. -/
def Xfer.inPhase (op : OpRegs) (x : Xfer) : Prop :=
  match x.seq.phase with
  | .idle => True
  | .header => x.seq.idx < x.seq.hdrLen.toNat
  | .payload => x.seq.idx < op.len

/-- One byte time of a transaction that is going on: one less remains, and the header register stays. -/
theorem Xfer.tick_progress (op : OpRegs) (bytes : List Byte) (x : Xfer) (b : Byte) (hw : x.inPhase op)
    (hr : 0 < x.remaining op) :
    (x.tick op bytes (some b)).inPhase op ∧ (x.tick op bytes (some b)).remaining op + 1 = x.remaining op ∧
      x.seq.SameHeader (x.tick op bytes (some b)).seq ∧ (x.tick op bytes (some b)).failed = x.failed := by
  obtain ⟨⟨phase, h0, h1, h2, hl, idx⟩, sent, got, failed⟩ := x
  cases phase with
  | idle => simp [remaining] at hr
  | header =>
    simp only [inPhase] at hw
    simp only [tick, sendHeader]
    split
    · by_cases h0 : op.len = 0 <;> refine ⟨?_, ?_, ⟨rfl, rfl, rfl, rfl⟩, rfl⟩ <;>
        simp only [inPhase, remaining, h0, if_true, if_false] <;> omega
    · refine ⟨?_, ?_, ⟨rfl, rfl, rfl, rfl⟩, rfl⟩ <;> simp only [inPhase, remaining] <;> omega
  | payload =>
    simp only [inPhase] at hw
    simp only [tick, movePayload, SeqRegs.bump]
    cases op.dir <;> by_cases h : idx + 1 = op.len <;> refine ⟨?_, ?_, ⟨rfl, rfl, rfl, rfl⟩, rfl⟩ <;>
      simp only [inPhase, remaining, h, if_true, if_false] <;> omega

theorem Xfer.ticks_progress (op : OpRegs) (bytes : List Byte) (inputs : List (Option Byte)) (x : Xfer)
    (hi : ∀ i ∈ inputs, i.isSome) (hw : x.inPhase op) (hr : inputs.length ≤ x.remaining op) :
    (inputs.foldl (tick op bytes) x).remaining op + inputs.length = x.remaining op ∧
      x.seq.SameHeader (inputs.foldl (tick op bytes) x).seq := by
  induction inputs generalizing x with
  | nil => exact ⟨rfl, rfl, rfl, rfl, rfl⟩
  | cons i inputs ih =>
    obtain ⟨b, rfl⟩ := Option.isSome_iff_exists.mp (hi i (by simp))
    simp only [List.length_cons] at hr
    obtain ⟨hw', hr', hs, _⟩ := x.tick_progress op bytes b hw (by omega)
    obtain ⟨h1, h2⟩ := ih (x.tick op bytes (some b)) (fun j hj => hi j (by simp [hj])) hw' (by omega)
    simp only [List.foldl_cons, List.length_cons]
    refine ⟨by omega, ?_⟩
    obtain ⟨a1, a2, a3, a4⟩ := hs
    obtain ⟨b1, b2, b3, b4⟩ := h2
    exact ⟨b1.trans a1, b2.trans a2, b3.trans a3, b4.trans a4⟩

theorem Xfer.start_remaining (op : OpRegs) (q : SeqRegs) :
    (Xfer.start op q).inPhase op ∧
      (Xfer.start op q).remaining op = (Xfer.start op q).seq.hdrLen.toNat + op.len := by
  constructor
  · show 0 < HdrLen.toNat _
    cases (Xfer.start op q).seq.hdrLen <;> simp [HdrLen.toNat]
  · rfl

/-- A transaction the bus faults, wherever the fault falls: it has failed, the sequencer is idle, and the header register is
the one its address gave. -/
theorem runTxn_fault (op : OpRegs) (q : SeqRegs) (bytes chip : List Byte) (k : Nat)
    (hc : op.dir = .rd → chip.length = op.len) :
    (runTxn op q bytes chip (.fault k)).failed = true ∧
      (runTxn op q bytes chip (.fault k)).seq.phase = .idle ∧
      (q.load (encodeHeader op.dir.opcode op.reg)).SameHeader (runTxn op q bytes chip (.fault k)).seq := by
  obtain ⟨hw, hr⟩ := Xfer.start_remaining op q
  simp only [runTxn, busInputs, List.foldl_append, List.foldl_cons, List.foldl_nil]
  generalize hx : Xfer.start op q = x at hw hr
  have hsame : (q.load (encodeHeader op.dir.opcode op.reg)).SameHeader x.seq := by
    subst hx; exact ⟨rfl, rfl, rfl, rfl⟩
  generalize hwh : (List.replicate x.seq.hdrLen.toNat (some (0 : Byte)) ++
    match op.dir with
    | .rd => chip.map some
    | .wr => List.replicate op.len (some 0)) = whole
  have hlen : whole.length = x.seq.hdrLen.toNat + op.len := by
    subst hwh
    cases hd : op.dir <;> simp
    exact hc hd
  have hsome : ∀ i ∈ whole.take (min k (whole.length - 1)), i.isSome := by
    intro i hi
    have hi := List.mem_of_mem_take hi
    subst hwh
    cases hd : op.dir <;> simp only [hd, List.mem_append, List.mem_map, List.mem_replicate] at hi <;>
      rcases hi with ⟨_, rfl⟩ | h
    · rfl
    · obtain ⟨_, _, rfl⟩ := h; rfl
    · rfl
    · obtain ⟨_, rfl⟩ := h; rfl
  have hpos : 0 < whole.length := by
    rw [hlen]
    cases x.seq.hdrLen <;> simp [HdrLen.toNat]
  have htake : (whole.take (min k (whole.length - 1))).length ≤ whole.length - 1 := by
    simp only [List.length_take]; omega
  obtain ⟨h1, h2⟩ := Xfer.ticks_progress op bytes _ x hsome hw (by omega)
  generalize (whole.take (min k (whole.length - 1))).foldl (Xfer.tick op bytes) x = y at h1 h2
  have hy : 0 < y.remaining op := by omega
  have htick : y.tick op bytes none = y.break := by
    unfold Xfer.tick
    cases hp : y.seq.phase <;> simp_all [Xfer.remaining]
  rw [htick]
  obtain ⟨a1, a2, a3, a4⟩ := hsame
  obtain ⟨b1, b2, b3, b4⟩ := h2
  exact ⟨rfl, rfl, b1.trans a1, b2.trans a2, b3.trans a3, b4.trans a4⟩

end Sys2Proof.Machine
end

