-- ==== Sys2Proof/Laws/State.lean ====
section
/-! SUPPORT. One lemma per field per update of `State`, so that no later proof unfolds a record update. -/

namespace Sys2Proof.Machine

section
variable (s : State)

/-! ## emit -/

@[simp] theorem State.emit_ctl (e : Event) : (s.emit e).ctl = s.ctl := rfl
@[simp] theorem State.emit_initAttempt (e : Event) : (s.emit e).initAttempt = s.initAttempt := rfl
@[simp] theorem State.emit_op (e : Event) : (s.emit e).op = s.op := rfl
@[simp] theorem State.emit_seq (e : Event) : (s.emit e).seq = s.seq := rfl
@[simp] theorem State.emit_rx (e : Event) : (s.emit e).rx = s.rx := rfl
@[simp] theorem State.emit_clk (e : Event) : (s.emit e).clk = s.clk := rfl
@[simp] theorem State.emit_gpio (e : Event) : (s.emit e).gpio = s.gpio := rfl
@[simp] theorem State.emit_trace (e : Event) : (s.emit e).trace = s.trace ++ [e] := rfl
@[simp] theorem State.emit_results (e : Event) : (s.emit e).results = s.results := rfl
@[simp] theorem State.emit_par (e : Event) : (s.emit e).par = s.par := rfl
@[simp] theorem State.emit_calls (e : Event) : (s.emit e).calls = s.calls := rfl
@[simp] theorem State.emit_script (e : Event) : (s.emit e).script = s.script := rfl
@[simp] theorem State.emit_free (e : Event) : (s.emit e).free = s.free := rfl

/-! ## respond -/

@[simp] theorem State.respond_ctl (r : Response) : (s.respond r).ctl = s.ctl := rfl
@[simp] theorem State.respond_initAttempt (r : Response) : (s.respond r).initAttempt = s.initAttempt := rfl
@[simp] theorem State.respond_op (r : Response) : (s.respond r).op = s.op := rfl
@[simp] theorem State.respond_seq (r : Response) : (s.respond r).seq = s.seq := rfl
@[simp] theorem State.respond_rx (r : Response) : (s.respond r).rx = s.rx := rfl
@[simp] theorem State.respond_clk (r : Response) : (s.respond r).clk = s.clk := rfl
@[simp] theorem State.respond_gpio (r : Response) : (s.respond r).gpio = s.gpio := rfl
@[simp] theorem State.respond_trace (r : Response) : (s.respond r).trace = s.trace := rfl
@[simp] theorem State.respond_results (r : Response) : (s.respond r).results = s.results ++ [r] := rfl
@[simp] theorem State.respond_par (r : Response) : (s.respond r).par = s.par := rfl
@[simp] theorem State.respond_calls (r : Response) : (s.respond r).calls = s.calls := rfl
@[simp] theorem State.respond_script (r : Response) : (s.respond r).script = s.script := rfl
@[simp] theorem State.respond_free (r : Response) : (s.respond r).free = s.free := rfl

/-! ## takeError -/

@[simp] theorem State.takeError_ctl (e : Error) : (s.takeError e).ctl = s.ctl := rfl
@[simp] theorem State.takeError_initAttempt (e : Error) : (s.takeError e).initAttempt = s.initAttempt := rfl
@[simp] theorem State.takeError_op (e : Error) : (s.takeError e).op = s.op := rfl
@[simp] theorem State.takeError_seq (e : Error) : (s.takeError e).seq = s.seq := rfl
@[simp] theorem State.takeError_rx (e : Error) : (s.takeError e).rx = s.rx := rfl
@[simp] theorem State.takeError_clk (e : Error) : (s.takeError e).clk = s.clk := rfl
@[simp] theorem State.takeError_gpio (e : Error) : (s.takeError e).gpio = s.gpio := rfl
@[simp] theorem State.takeError_trace (e : Error) : (s.takeError e).trace = s.trace := rfl
@[simp] theorem State.takeError_results (e : Error) : (s.takeError e).results = s.results ++ [.error e] := rfl
@[simp] theorem State.takeError_par (e : Error) : (s.takeError e).par = s.par := rfl
@[simp] theorem State.takeError_calls (e : Error) : (s.takeError e).calls = s.calls := rfl
@[simp] theorem State.takeError_script (e : Error) : (s.takeError e).script = s.script := rfl
@[simp] theorem State.takeError_free (e : Error) : (s.takeError e).free = s.free := rfl

/-! ## setCtlState -/

@[simp] theorem State.setCtlState_ctl (c : CtlState) : (s.setCtlState c).ctl = ⟨c, s.ctl.cfg, s.ctl.cfgValid⟩ := rfl
@[simp] theorem State.setCtlState_initAttempt (c : CtlState) : (s.setCtlState c).initAttempt = s.initAttempt := rfl
@[simp] theorem State.setCtlState_op (c : CtlState) : (s.setCtlState c).op = s.op := rfl
@[simp] theorem State.setCtlState_seq (c : CtlState) : (s.setCtlState c).seq = s.seq := rfl
@[simp] theorem State.setCtlState_rx (c : CtlState) : (s.setCtlState c).rx = s.rx := rfl
@[simp] theorem State.setCtlState_clk (c : CtlState) : (s.setCtlState c).clk = s.clk := rfl
@[simp] theorem State.setCtlState_gpio (c : CtlState) : (s.setCtlState c).gpio = s.gpio := rfl
@[simp] theorem State.setCtlState_trace (c : CtlState) : (s.setCtlState c).trace = s.trace := rfl
@[simp] theorem State.setCtlState_results (c : CtlState) : (s.setCtlState c).results = s.results := rfl
@[simp] theorem State.setCtlState_par (c : CtlState) : (s.setCtlState c).par = s.par := rfl
@[simp] theorem State.setCtlState_calls (c : CtlState) : (s.setCtlState c).calls = s.calls := rfl
@[simp] theorem State.setCtlState_script (c : CtlState) : (s.setCtlState c).script = s.script := rfl
@[simp] theorem State.setCtlState_free (c : CtlState) : (s.setCtlState c).free = s.free := rfl

/-! ## latchCfg -/

@[simp] theorem State.latchCfg_ctl (cfg : ChipConfig) : (s.latchCfg cfg).ctl = ⟨s.ctl.state, cfg, true⟩ := rfl
@[simp] theorem State.latchCfg_initAttempt (cfg : ChipConfig) : (s.latchCfg cfg).initAttempt = s.initAttempt := rfl
@[simp] theorem State.latchCfg_op (cfg : ChipConfig) : (s.latchCfg cfg).op = s.op := rfl
@[simp] theorem State.latchCfg_seq (cfg : ChipConfig) : (s.latchCfg cfg).seq = s.seq := rfl
@[simp] theorem State.latchCfg_rx (cfg : ChipConfig) : (s.latchCfg cfg).rx = s.rx := rfl
@[simp] theorem State.latchCfg_clk (cfg : ChipConfig) : (s.latchCfg cfg).clk = s.clk := rfl
@[simp] theorem State.latchCfg_gpio (cfg : ChipConfig) : (s.latchCfg cfg).gpio = s.gpio := rfl
@[simp] theorem State.latchCfg_trace (cfg : ChipConfig) : (s.latchCfg cfg).trace = s.trace := rfl
@[simp] theorem State.latchCfg_results (cfg : ChipConfig) : (s.latchCfg cfg).results = s.results := rfl
@[simp] theorem State.latchCfg_par (cfg : ChipConfig) : (s.latchCfg cfg).par = s.par := rfl
@[simp] theorem State.latchCfg_calls (cfg : ChipConfig) : (s.latchCfg cfg).calls = s.calls := rfl
@[simp] theorem State.latchCfg_script (cfg : ChipConfig) : (s.latchCfg cfg).script = s.script := rfl
@[simp] theorem State.latchCfg_free (cfg : ChipConfig) : (s.latchCfg cfg).free = s.free := rfl

/-! ## setAttempt -/

@[simp] theorem State.setAttempt_ctl (n : Nat) : (s.setAttempt n).ctl = s.ctl := rfl
@[simp] theorem State.setAttempt_initAttempt (n : Nat) : (s.setAttempt n).initAttempt = n := rfl
@[simp] theorem State.setAttempt_op (n : Nat) : (s.setAttempt n).op = s.op := rfl
@[simp] theorem State.setAttempt_seq (n : Nat) : (s.setAttempt n).seq = s.seq := rfl
@[simp] theorem State.setAttempt_rx (n : Nat) : (s.setAttempt n).rx = s.rx := rfl
@[simp] theorem State.setAttempt_clk (n : Nat) : (s.setAttempt n).clk = s.clk := rfl
@[simp] theorem State.setAttempt_gpio (n : Nat) : (s.setAttempt n).gpio = s.gpio := rfl
@[simp] theorem State.setAttempt_trace (n : Nat) : (s.setAttempt n).trace = s.trace := rfl
@[simp] theorem State.setAttempt_results (n : Nat) : (s.setAttempt n).results = s.results := rfl
@[simp] theorem State.setAttempt_par (n : Nat) : (s.setAttempt n).par = s.par := rfl
@[simp] theorem State.setAttempt_calls (n : Nat) : (s.setAttempt n).calls = s.calls := rfl
@[simp] theorem State.setAttempt_script (n : Nat) : (s.setAttempt n).script = s.script := rfl
@[simp] theorem State.setAttempt_free (n : Nat) : (s.setAttempt n).free = s.free := rfl

/-! ## setRx -/

@[simp] theorem State.setRx_ctl (v : RxRegs) : (s.setRx v).ctl = s.ctl := rfl
@[simp] theorem State.setRx_initAttempt (v : RxRegs) : (s.setRx v).initAttempt = s.initAttempt := rfl
@[simp] theorem State.setRx_op (v : RxRegs) : (s.setRx v).op = s.op := rfl
@[simp] theorem State.setRx_seq (v : RxRegs) : (s.setRx v).seq = s.seq := rfl
@[simp] theorem State.setRx_rx (v : RxRegs) : (s.setRx v).rx = v := rfl
@[simp] theorem State.setRx_clk (v : RxRegs) : (s.setRx v).clk = s.clk := rfl
@[simp] theorem State.setRx_gpio (v : RxRegs) : (s.setRx v).gpio = s.gpio := rfl
@[simp] theorem State.setRx_trace (v : RxRegs) : (s.setRx v).trace = s.trace := rfl
@[simp] theorem State.setRx_results (v : RxRegs) : (s.setRx v).results = s.results := rfl
@[simp] theorem State.setRx_par (v : RxRegs) : (s.setRx v).par = s.par := rfl
@[simp] theorem State.setRx_calls (v : RxRegs) : (s.setRx v).calls = s.calls := rfl
@[simp] theorem State.setRx_script (v : RxRegs) : (s.setRx v).script = s.script := rfl
@[simp] theorem State.setRx_free (v : RxRegs) : (s.setRx v).free = s.free := rfl

/-! ## setClk -/

@[simp] theorem State.setClk_ctl (r : ClkRate) : (s.setClk r).ctl = s.ctl := rfl
@[simp] theorem State.setClk_initAttempt (r : ClkRate) : (s.setClk r).initAttempt = s.initAttempt := rfl
@[simp] theorem State.setClk_op (r : ClkRate) : (s.setClk r).op = s.op := rfl
@[simp] theorem State.setClk_seq (r : ClkRate) : (s.setClk r).seq = s.seq := rfl
@[simp] theorem State.setClk_rx (r : ClkRate) : (s.setClk r).rx = s.rx := rfl
@[simp] theorem State.setClk_clk (r : ClkRate) : (s.setClk r).clk = r := rfl
@[simp] theorem State.setClk_gpio (r : ClkRate) : (s.setClk r).gpio = s.gpio := rfl
@[simp] theorem State.setClk_trace (r : ClkRate) : (s.setClk r).trace = s.trace ++ [.clkSet r] := rfl
@[simp] theorem State.setClk_results (r : ClkRate) : (s.setClk r).results = s.results := rfl
@[simp] theorem State.setClk_par (r : ClkRate) : (s.setClk r).par = s.par := rfl
@[simp] theorem State.setClk_calls (r : ClkRate) : (s.setClk r).calls = s.calls := rfl
@[simp] theorem State.setClk_script (r : ClkRate) : (s.setClk r).script = s.script := rfl
@[simp] theorem State.setClk_free (r : ClkRate) : (s.setClk r).free = s.free := rfl

/-! ## setWake -/

@[simp] theorem State.setWake_ctl (l : Bool) : (s.setWake l).ctl = s.ctl := rfl
@[simp] theorem State.setWake_initAttempt (l : Bool) : (s.setWake l).initAttempt = s.initAttempt := rfl
@[simp] theorem State.setWake_op (l : Bool) : (s.setWake l).op = s.op := rfl
@[simp] theorem State.setWake_seq (l : Bool) : (s.setWake l).seq = s.seq := rfl
@[simp] theorem State.setWake_rx (l : Bool) : (s.setWake l).rx = s.rx := rfl
@[simp] theorem State.setWake_clk (l : Bool) : (s.setWake l).clk = s.clk := rfl
@[simp] theorem State.setWake_gpio (l : Bool) : (s.setWake l).gpio = ⟨l, s.gpio.resetN⟩ := rfl
@[simp] theorem State.setWake_trace (l : Bool) : (s.setWake l).trace = s.trace ++ [.gpioSet .wake l] := rfl
@[simp] theorem State.setWake_results (l : Bool) : (s.setWake l).results = s.results := rfl
@[simp] theorem State.setWake_par (l : Bool) : (s.setWake l).par = s.par := rfl
@[simp] theorem State.setWake_calls (l : Bool) : (s.setWake l).calls = s.calls := rfl
@[simp] theorem State.setWake_script (l : Bool) : (s.setWake l).script = s.script := rfl
@[simp] theorem State.setWake_free (l : Bool) : (s.setWake l).free = s.free := rfl

/-! ## setResetN -/

@[simp] theorem State.setResetN_ctl (l : Bool) : (s.setResetN l).ctl = s.ctl := rfl
@[simp] theorem State.setResetN_initAttempt (l : Bool) : (s.setResetN l).initAttempt = s.initAttempt := rfl
@[simp] theorem State.setResetN_op (l : Bool) : (s.setResetN l).op = s.op := rfl
@[simp] theorem State.setResetN_seq (l : Bool) : (s.setResetN l).seq = s.seq := rfl
@[simp] theorem State.setResetN_rx (l : Bool) : (s.setResetN l).rx = s.rx := rfl
@[simp] theorem State.setResetN_clk (l : Bool) : (s.setResetN l).clk = s.clk := rfl
@[simp] theorem State.setResetN_gpio (l : Bool) : (s.setResetN l).gpio = ⟨s.gpio.wake, l⟩ := rfl
@[simp] theorem State.setResetN_trace (l : Bool) : (s.setResetN l).trace = s.trace ++ [.gpioSet .resetN l] := rfl
@[simp] theorem State.setResetN_results (l : Bool) : (s.setResetN l).results = s.results := rfl
@[simp] theorem State.setResetN_par (l : Bool) : (s.setResetN l).par = s.par := rfl
@[simp] theorem State.setResetN_calls (l : Bool) : (s.setResetN l).calls = s.calls := rfl
@[simp] theorem State.setResetN_script (l : Bool) : (s.setResetN l).script = s.script := rfl
@[simp] theorem State.setResetN_free (l : Bool) : (s.setResetN l).free = s.free := rfl

/-! ## delay -/

@[simp] theorem State.delay_ctl (d : Nat) : (s.delay d).ctl = s.ctl := rfl
@[simp] theorem State.delay_initAttempt (d : Nat) : (s.delay d).initAttempt = s.initAttempt := rfl
@[simp] theorem State.delay_op (d : Nat) : (s.delay d).op = s.op := rfl
@[simp] theorem State.delay_seq (d : Nat) : (s.delay d).seq = s.seq := rfl
@[simp] theorem State.delay_rx (d : Nat) : (s.delay d).rx = s.rx := rfl
@[simp] theorem State.delay_clk (d : Nat) : (s.delay d).clk = s.clk := rfl
@[simp] theorem State.delay_gpio (d : Nat) : (s.delay d).gpio = s.gpio := rfl
@[simp] theorem State.delay_trace (d : Nat) : (s.delay d).trace = s.trace ++ [.delay d] := rfl
@[simp] theorem State.delay_results (d : Nat) : (s.delay d).results = s.results := rfl
@[simp] theorem State.delay_par (d : Nat) : (s.delay d).par = s.par := rfl
@[simp] theorem State.delay_calls (d : Nat) : (s.delay d).calls = s.calls := rfl
@[simp] theorem State.delay_script (d : Nat) : (s.delay d).script = s.script := rfl
@[simp] theorem State.delay_free (d : Nat) : (s.delay d).free = s.free := rfl

/-! ## loseRx -/

@[simp] theorem State.loseRx_ctl : (s.loseRx).ctl = s.ctl := rfl
@[simp] theorem State.loseRx_initAttempt : (s.loseRx).initAttempt = s.initAttempt := rfl
@[simp] theorem State.loseRx_op : (s.loseRx).op = s.op := rfl
@[simp] theorem State.loseRx_seq : (s.loseRx).seq = s.seq := rfl
@[simp] theorem State.loseRx_rx : (s.loseRx).rx = Config.freeRx s.free := rfl
@[simp] theorem State.loseRx_clk : (s.loseRx).clk = s.clk := rfl
@[simp] theorem State.loseRx_gpio : (s.loseRx).gpio = s.gpio := rfl
@[simp] theorem State.loseRx_trace : (s.loseRx).trace = s.trace := rfl
@[simp] theorem State.loseRx_results : (s.loseRx).results = s.results := rfl
@[simp] theorem State.loseRx_par : (s.loseRx).par = s.par := rfl
@[simp] theorem State.loseRx_calls : (s.loseRx).calls = s.calls := rfl
@[simp] theorem State.loseRx_script : (s.loseRx).script = s.script := rfl
@[simp] theorem State.loseRx_free : (s.loseRx).free = s.free + 1 := rfl

/-! ## advance -/

@[simp] theorem State.advance_ctl : (s.advance).ctl = s.ctl := rfl
@[simp] theorem State.advance_initAttempt : (s.advance).initAttempt = s.initAttempt := rfl
@[simp] theorem State.advance_op : (s.advance).op = s.op := rfl
@[simp] theorem State.advance_seq : (s.advance).seq = s.seq := rfl
@[simp] theorem State.advance_rx : (s.advance).rx = s.rx := rfl
@[simp] theorem State.advance_clk : (s.advance).clk = s.clk := rfl
@[simp] theorem State.advance_gpio : (s.advance).gpio = s.gpio := rfl
@[simp] theorem State.advance_trace : (s.advance).trace = s.trace := rfl
@[simp] theorem State.advance_results : (s.advance).results = s.results := rfl
@[simp] theorem State.advance_par : (s.advance).par = s.par := rfl
@[simp] theorem State.advance_calls : (s.advance).calls = s.calls := rfl
@[simp] theorem State.advance_script : (s.advance).script = s.script.tail := rfl
@[simp] theorem State.advance_free : (s.advance).free = s.free + 1 := rfl

/-! ## acquire -/

@[simp] theorem State.acquire_ctl : (s.acquire).ctl = s.ctl := rfl
@[simp] theorem State.acquire_initAttempt : (s.acquire).initAttempt = s.initAttempt := rfl
@[simp] theorem State.acquire_op : (s.acquire).op = s.op := rfl
@[simp] theorem State.acquire_seq : (s.acquire).seq = s.seq := rfl
@[simp] theorem State.acquire_rx : (s.acquire).rx = s.rx := rfl
@[simp] theorem State.acquire_clk : (s.acquire).clk = s.clk := rfl
@[simp] theorem State.acquire_gpio : (s.acquire).gpio = s.gpio := rfl
@[simp] theorem State.acquire_trace : (s.acquire).trace = s.trace ++ [.acquire s.available] := rfl
@[simp] theorem State.acquire_results : (s.acquire).results = s.results := rfl
@[simp] theorem State.acquire_par : (s.acquire).par = s.par := rfl
@[simp] theorem State.acquire_calls : (s.acquire).calls = s.calls := rfl
@[simp] theorem State.acquire_script : (s.acquire).script = s.script.tail := rfl
@[simp] theorem State.acquire_free : (s.acquire).free = s.free + 1 := rfl

/-! ## present -/

@[simp] theorem State.present_ctl (r : Request) : (s.present r).ctl = s.ctl := rfl
@[simp] theorem State.present_initAttempt (r : Request) : (s.present r).initAttempt = s.initAttempt := rfl
@[simp] theorem State.present_op (r : Request) : (s.present r).op = s.op := rfl
@[simp] theorem State.present_seq (r : Request) : (s.present r).seq = s.seq := rfl
@[simp] theorem State.present_rx (r : Request) : (s.present r).rx = s.rx := rfl
@[simp] theorem State.present_clk (r : Request) : (s.present r).clk = s.clk := rfl
@[simp] theorem State.present_gpio (r : Request) : (s.present r).gpio = s.gpio := rfl
@[simp] theorem State.present_trace (r : Request) : (s.present r).trace = s.trace := rfl
@[simp] theorem State.present_results (r : Request) : (s.present r).results = s.results := rfl
@[simp] theorem State.present_par (r : Request) : (s.present r).par = s.par := rfl
@[simp] theorem State.present_calls (r : Request) : (s.present r).calls = r :: s.calls := rfl
@[simp] theorem State.present_script (r : Request) : (s.present r).script = s.script := rfl
@[simp] theorem State.present_free (r : Request) : (s.present r).free = s.free := rfl

end

end Sys2Proof.Machine
end

