-- ==== Sys2Proof/Laws/Transport.lean ====
section
/-! SUPPORT. What `read` and `write` can do, said once: the result is the environment's, the trace gains one event, and of the
block only the operand latches and the sequencer change. -/

namespace Sys2Proof.Machine

/-- The state after a `read` that the bus answers: the latches, the header register, `seq.idx` at the length, `Idle`, and
the event (R103, R105). -/
def State.readDone (reg : Addr) (n : Nat) (s : State) : State :=
  { s.advance with
    op := ⟨reg, n, .rd⟩
    seq := { s.seq.load (encodeHeader Config.opRead reg) with idx := n, phase := .idle }
    trace := s.trace ++ [Event.busRead (encodeHeader Config.opRead reg) n (some (s.chipBytes n))] }

/-- The state after a `write` that the bus answers (R104, R105). -/
def State.writeDone (reg : Addr) (bytes : List Byte) (s : State) : State :=
  { s.advance with
    op := ⟨reg, bytes.length, .wr⟩
    seq := { s.seq.load (encodeHeader Config.opWrite reg) with idx := bytes.length, phase := .idle }
    trace := s.trace ++ [Event.busWrite (encodeHeader Config.opWrite reg) bytes true] }

/-- The state after a `read` that the bus faults (R31, R105, R106). -/
def State.readFailed (reg : Addr) (n : Nat) (s : State) : State :=
  { s.advance with
    op := ⟨reg, n, .rd⟩
    seq := (s.readTxn reg n).seq
    trace := s.trace ++ [Event.busRead (encodeHeader Config.opRead reg) n none] }

/-- The state after a `write` that the bus faults (R31, R105, R106). -/
def State.writeFailed (reg : Addr) (bytes : List Byte) (s : State) : State :=
  { s.advance with
    op := ⟨reg, bytes.length, .wr⟩
    seq := (s.writeTxn reg bytes).seq
    trace := s.trace ++ [Event.busWrite (encodeHeader Config.opWrite reg) bytes false] }

theorem State.chipBytes_length (n : Nat) (s : State) : (s.chipBytes n).length = n := by
  unfold chipBytes
  split <;> simp

theorem State.chipBytes_ok {n : Nat} {s : State} {b : List Byte} (h : s.reply = .ok b) :
    s.chipBytes n = fit (Config.freeByte s.free) n b := by
  simp [chipBytes, h]

/-! ## The fields of the states after a transaction -/

@[simp] theorem State.readDone_ctl (reg : Addr) (n : Nat) (s : State) : (s.readDone reg n).ctl = s.ctl := rfl
@[simp] theorem State.readDone_initAttempt (reg : Addr) (n : Nat) (s : State) : (s.readDone reg n).initAttempt = s.initAttempt := rfl
@[simp] theorem State.readDone_op (reg : Addr) (n : Nat) (s : State) : (s.readDone reg n).op = ⟨reg, n, .rd⟩ := rfl
@[simp] theorem State.readDone_rx (reg : Addr) (n : Nat) (s : State) : (s.readDone reg n).rx = s.rx := rfl
@[simp] theorem State.readDone_clk (reg : Addr) (n : Nat) (s : State) : (s.readDone reg n).clk = s.clk := rfl
@[simp] theorem State.readDone_gpio (reg : Addr) (n : Nat) (s : State) : (s.readDone reg n).gpio = s.gpio := rfl
@[simp] theorem State.readDone_results (reg : Addr) (n : Nat) (s : State) : (s.readDone reg n).results = s.results := rfl
@[simp] theorem State.readDone_par (reg : Addr) (n : Nat) (s : State) : (s.readDone reg n).par = s.par := rfl
@[simp] theorem State.readDone_calls (reg : Addr) (n : Nat) (s : State) : (s.readDone reg n).calls = s.calls := rfl
@[simp] theorem State.readDone_script (reg : Addr) (n : Nat) (s : State) : (s.readDone reg n).script = s.script.tail := rfl
@[simp] theorem State.readDone_free (reg : Addr) (n : Nat) (s : State) : (s.readDone reg n).free = s.free + 1 := rfl
@[simp] theorem State.readDone_trace (reg : Addr) (n : Nat) (s : State) : (s.readDone reg n).trace = s.trace ++ [Event.busRead (encodeHeader Config.opRead reg) n (some (s.chipBytes n))] := rfl
@[simp] theorem State.readDone_phase (reg : Addr) (n : Nat) (s : State) : (s.readDone reg n).seq.phase = .idle := rfl

@[simp] theorem State.readFailed_ctl (reg : Addr) (n : Nat) (s : State) : (s.readFailed reg n).ctl = s.ctl := rfl
@[simp] theorem State.readFailed_initAttempt (reg : Addr) (n : Nat) (s : State) : (s.readFailed reg n).initAttempt = s.initAttempt := rfl
@[simp] theorem State.readFailed_op (reg : Addr) (n : Nat) (s : State) : (s.readFailed reg n).op = ⟨reg, n, .rd⟩ := rfl
@[simp] theorem State.readFailed_rx (reg : Addr) (n : Nat) (s : State) : (s.readFailed reg n).rx = s.rx := rfl
@[simp] theorem State.readFailed_clk (reg : Addr) (n : Nat) (s : State) : (s.readFailed reg n).clk = s.clk := rfl
@[simp] theorem State.readFailed_gpio (reg : Addr) (n : Nat) (s : State) : (s.readFailed reg n).gpio = s.gpio := rfl
@[simp] theorem State.readFailed_results (reg : Addr) (n : Nat) (s : State) : (s.readFailed reg n).results = s.results := rfl
@[simp] theorem State.readFailed_par (reg : Addr) (n : Nat) (s : State) : (s.readFailed reg n).par = s.par := rfl
@[simp] theorem State.readFailed_calls (reg : Addr) (n : Nat) (s : State) : (s.readFailed reg n).calls = s.calls := rfl
@[simp] theorem State.readFailed_script (reg : Addr) (n : Nat) (s : State) : (s.readFailed reg n).script = s.script.tail := rfl
@[simp] theorem State.readFailed_free (reg : Addr) (n : Nat) (s : State) : (s.readFailed reg n).free = s.free + 1 := rfl
@[simp] theorem State.readFailed_trace (reg : Addr) (n : Nat) (s : State) : (s.readFailed reg n).trace = s.trace ++ [Event.busRead (encodeHeader Config.opRead reg) n none] := rfl

@[simp] theorem State.writeDone_ctl (reg : Addr) (l : List Byte) (s : State) : (s.writeDone reg l).ctl = s.ctl := rfl
@[simp] theorem State.writeDone_initAttempt (reg : Addr) (l : List Byte) (s : State) : (s.writeDone reg l).initAttempt = s.initAttempt := rfl
@[simp] theorem State.writeDone_op (reg : Addr) (l : List Byte) (s : State) : (s.writeDone reg l).op = ⟨reg, l.length, .wr⟩ := rfl
@[simp] theorem State.writeDone_rx (reg : Addr) (l : List Byte) (s : State) : (s.writeDone reg l).rx = s.rx := rfl
@[simp] theorem State.writeDone_clk (reg : Addr) (l : List Byte) (s : State) : (s.writeDone reg l).clk = s.clk := rfl
@[simp] theorem State.writeDone_gpio (reg : Addr) (l : List Byte) (s : State) : (s.writeDone reg l).gpio = s.gpio := rfl
@[simp] theorem State.writeDone_results (reg : Addr) (l : List Byte) (s : State) : (s.writeDone reg l).results = s.results := rfl
@[simp] theorem State.writeDone_par (reg : Addr) (l : List Byte) (s : State) : (s.writeDone reg l).par = s.par := rfl
@[simp] theorem State.writeDone_calls (reg : Addr) (l : List Byte) (s : State) : (s.writeDone reg l).calls = s.calls := rfl
@[simp] theorem State.writeDone_script (reg : Addr) (l : List Byte) (s : State) : (s.writeDone reg l).script = s.script.tail := rfl
@[simp] theorem State.writeDone_free (reg : Addr) (l : List Byte) (s : State) : (s.writeDone reg l).free = s.free + 1 := rfl
@[simp] theorem State.writeDone_trace (reg : Addr) (l : List Byte) (s : State) : (s.writeDone reg l).trace = s.trace ++ [Event.busWrite (encodeHeader Config.opWrite reg) l true] := rfl
@[simp] theorem State.writeDone_phase (reg : Addr) (l : List Byte) (s : State) : (s.writeDone reg l).seq.phase = .idle := rfl

@[simp] theorem State.writeFailed_ctl (reg : Addr) (l : List Byte) (s : State) : (s.writeFailed reg l).ctl = s.ctl := rfl
@[simp] theorem State.writeFailed_initAttempt (reg : Addr) (l : List Byte) (s : State) : (s.writeFailed reg l).initAttempt = s.initAttempt := rfl
@[simp] theorem State.writeFailed_op (reg : Addr) (l : List Byte) (s : State) : (s.writeFailed reg l).op = ⟨reg, l.length, .wr⟩ := rfl
@[simp] theorem State.writeFailed_rx (reg : Addr) (l : List Byte) (s : State) : (s.writeFailed reg l).rx = s.rx := rfl
@[simp] theorem State.writeFailed_clk (reg : Addr) (l : List Byte) (s : State) : (s.writeFailed reg l).clk = s.clk := rfl
@[simp] theorem State.writeFailed_gpio (reg : Addr) (l : List Byte) (s : State) : (s.writeFailed reg l).gpio = s.gpio := rfl
@[simp] theorem State.writeFailed_results (reg : Addr) (l : List Byte) (s : State) : (s.writeFailed reg l).results = s.results := rfl
@[simp] theorem State.writeFailed_par (reg : Addr) (l : List Byte) (s : State) : (s.writeFailed reg l).par = s.par := rfl
@[simp] theorem State.writeFailed_calls (reg : Addr) (l : List Byte) (s : State) : (s.writeFailed reg l).calls = s.calls := rfl
@[simp] theorem State.writeFailed_script (reg : Addr) (l : List Byte) (s : State) : (s.writeFailed reg l).script = s.script.tail := rfl
@[simp] theorem State.writeFailed_free (reg : Addr) (l : List Byte) (s : State) : (s.writeFailed reg l).free = s.free + 1 := rfl
@[simp] theorem State.writeFailed_trace (reg : Addr) (l : List Byte) (s : State) : (s.writeFailed reg l).trace = s.trace ++ [Event.busWrite (encodeHeader Config.opWrite reg) l false] := rfl

/-! ## One transaction -/

theorem busRead_ok {reg : Addr} {n : Nat} {s : State} {b : List Byte} (h : s.reply = .ok b) :
    busRead reg n s = (some (s.chipBytes n), s.readDone reg n) := by
  have hx := runTxn_read_ok reg s.seq [] (s.chipBytes n) b
  rw [State.chipBytes_length] at hx
  simp [busRead, State.readTxn, h, hx, Xfer.result, State.readDone]

theorem busRead_fault {reg : Addr} {n : Nat} {s : State} {k : Nat} (h : s.reply = .fault k) :
    busRead reg n s = (none, s.readFailed reg n) := by
  obtain ⟨hf, _, _⟩ := runTxn_fault ⟨reg, n, .rd⟩ s.seq [] (s.chipBytes n) k (fun _ => s.chipBytes_length n)
  have hr : (s.readTxn reg n).result = none := by
    unfold State.readTxn
    rw [h]
    simp [Xfer.result, hf]
  simp [busRead, State.readFailed, hr]

theorem busWrite_ok {reg : Addr} {bytes : List Byte} {s : State} {b : List Byte} (h : s.reply = .ok b) :
    busWrite reg bytes s = (true, s.writeDone reg bytes) := by
  simp [busWrite, State.writeTxn, h, runTxn_write_ok, State.writeDone]

theorem busWrite_fault {reg : Addr} {bytes : List Byte} {s : State} {k : Nat} (h : s.reply = .fault k) :
    busWrite reg bytes s = (false, s.writeFailed reg bytes) := by
  obtain ⟨hf, _, _⟩ := runTxn_fault ⟨reg, bytes.length, .wr⟩ s.seq bytes [] k (by simp)
  have hr : (s.writeTxn reg bytes).failed = true := by
    unfold State.writeTxn
    rw [h]
    exact hf
  simp [busWrite, State.writeFailed, hr]

/-! ## read and write -/

theorem read_ok {reg : Addr} {n : Nat} {s : State} {b : List Byte} (h : s.reply = .ok b) :
    read reg n s = .ok (s.chipBytes n) (s.readDone reg n) := by
  simp [read, busRead_ok h]

theorem read_fault {reg : Addr} {n : Nat} {s : State} {k : Nat} (h : s.reply = .fault k) :
    read reg n s = .raise .transportError (s.readFailed reg n) := by
  simp [read, busRead_fault h]

theorem write_ok {reg : Addr} {bytes : List Byte} {s : State} {b : List Byte} (h : s.reply = .ok b) :
    write reg bytes s = .ok () (s.writeDone reg bytes) := by
  simp [write, busWrite_ok h]

theorem write_fault {reg : Addr} {bytes : List Byte} {s : State} {k : Nat} (h : s.reply = .fault k) :
    write reg bytes s = .raise .transportError (s.writeFailed reg bytes) := by
  simp [write, busWrite_fault h]

/-- Everything `read` can do: the transaction is answered, or it is faulted. -/
theorem read_cases (reg : Addr) (n : Nat) (s : State) :
    (∃ b, s.reply = .ok b ∧ read reg n s = .ok (s.chipBytes n) (s.readDone reg n)) ∨
    (∃ k, s.reply = .fault k ∧ read reg n s = .raise .transportError (s.readFailed reg n)) := by
  cases hr : s.reply with
  | ok b => exact .inl ⟨b, rfl, read_ok hr⟩
  | fault k => exact .inr ⟨k, rfl, read_fault hr⟩

/-- Everything `write` can do: the transaction is answered, or it is faulted. -/
theorem write_cases (reg : Addr) (bytes : List Byte) (s : State) :
    (∃ b, s.reply = .ok b ∧ write reg bytes s = .ok () (s.writeDone reg bytes)) ∨
    (∃ k, s.reply = .fault k ∧ write reg bytes s = .raise .transportError (s.writeFailed reg bytes)) := by
  cases hr : s.reply with
  | ok b => exact .inl ⟨b, rfl, write_ok hr⟩
  | fault k => exact .inr ⟨k, rfl, write_fault hr⟩

/-! ## The sequencer after a transaction -/

theorem State.readFailed_phase {reg : Addr} {n : Nat} {s : State} {k : Nat} (h : s.reply = .fault k) :
    (s.readFailed reg n).seq.phase = .idle := by
  show (s.readTxn reg n).seq.phase = .idle
  unfold readTxn
  rw [h]
  exact (runTxn_fault ⟨reg, n, .rd⟩ s.seq [] (s.chipBytes n) k (fun _ => s.chipBytes_length n)).2.1

theorem State.writeFailed_phase {reg : Addr} {bytes : List Byte} {s : State} {k : Nat} (h : s.reply = .fault k) :
    (s.writeFailed reg bytes).seq.phase = .idle := by
  show (s.writeTxn reg bytes).seq.phase = .idle
  unfold writeTxn
  rw [h]
  exact (runTxn_fault ⟨reg, bytes.length, .wr⟩ s.seq bytes [] k (by simp)).2.1

end Sys2Proof.Machine
end

