-- ==== Sys2Proof/Laws/Env.lean ====
section
/-! SUPPORT. The environment's coming answers: they depend on the script and the counter alone, and one transaction takes one. -/

namespace Sys2Proof.Machine

theorem State.reply_congr {s t : State} (h1 : t.script = s.script) (h2 : t.free = s.free) : t.reply = s.reply := by
  simp [reply, h1, h2]

@[simp] theorem State.later_zero (s : State) : s.later 0 = s := rfl

theorem State.later_succ (k : Nat) (s : State) : s.later (k + 1) = s.advance.later k := rfl

@[simp] theorem State.later_script (k : Nat) (s : State) : (s.later k).script = s.script.drop k := by
  induction k generalizing s with
  | zero => rfl
  | succ k ih => rw [later_succ, ih]; simp

@[simp] theorem State.later_free (k : Nat) (s : State) : (s.later k).free = s.free + k := by
  induction k generalizing s with
  | zero => rfl
  | succ k ih => rw [later_succ, ih]; simp; omega

theorem State.available_congr {s t : State} (h1 : t.script = s.script) (h2 : t.free = s.free) :
    t.available = s.available := by
  simp [available, reply_congr h1 h2]

theorem State.chipBytes_congr {s t : State} (n : Nat) (h1 : t.script = s.script) (h2 : t.free = s.free) :
    t.chipBytes n = s.chipBytes n := by
  simp [chipBytes, reply_congr h1 h2, h2]

/-- Answers already taken: the `j`-th after `k` is the `(k + j)`-th. -/
theorem State.answered_add {s t : State} {k : Nat} (h1 : t.script = s.script.drop k) (h2 : t.free = s.free + k)
    (j : Nat) : t.answered j = s.answered (k + j) := by
  apply available_congr
  · simp [h1]
  · simp [h2]; omega

theorem State.received_add {s t : State} {k : Nat} (h1 : t.script = s.script.drop k) (h2 : t.free = s.free + k)
    (j n : Nat) : t.received j n = s.received (k + j) n := by
  unfold received
  rw [answered_add h1 h2, chipBytes_congr (s := s.later (k + j)) (t := t.later j) n]
  · simp [h1]
  · simp [h2]; omega

theorem State.received_isSome (k n : Nat) (s : State) : (s.received k n).isSome = s.answered k := by
  unfold received
  split <;> simp_all

theorem State.received_length {k n : Nat} {s : State} {b : List Byte} (h : s.received k n = some b) : b.length = n := by
  unfold received at h
  split at h
  · cases h; exact chipBytes_length n _
  · cases h

theorem State.answered_of_received {k n : Nat} {s : State} {b : List Byte} (h : s.received k n = some b) :
    s.answered k = true := by
  rw [← received_isSome k n s, h]; rfl

theorem State.not_answered_of_none {k n : Nat} {s : State} (h : s.received k n = none) : s.answered k = false := by
  rw [← received_isSome k n s, h]; rfl

theorem State.received_none {k n : Nat} {s : State} (h : s.answered k = false) : s.received k n = none := by
  simp [received, h]

/-- An answered environment call, as the reply it is. -/
theorem State.answered_zero_iff (s : State) : s.answered 0 = true ↔ ∃ b, s.reply = .ok b := by
  show s.available = true ↔ _
  unfold available
  cases s.reply <;> simp

theorem State.not_answered_zero_iff (s : State) : s.answered 0 = false ↔ ∃ k, s.reply = .fault k := by
  show s.available = false ↔ _
  unfold available
  cases s.reply <;> simp

/-! ## read and write by what is received -/

theorem read_of_some {reg : Addr} {n : Nat} {s : State} {b : List Byte} (h : s.received 0 n = some b) :
    read reg n s = .ok b (s.readDone reg n) := by
  obtain ⟨b', hb⟩ := s.answered_zero_iff.mp (State.answered_of_received h)
  rw [read_ok hb]
  congr 1
  unfold State.received at h
  rw [if_pos (State.answered_of_received (n := n) (b := b) (by unfold State.received; exact h))] at h
  exact Option.some.inj h

theorem read_of_none {reg : Addr} {n : Nat} {s : State} (h : s.received 0 n = none) :
    read reg n s = .raise .transportError (s.readFailed reg n) := by
  have : s.answered 0 = false := by rw [← s.received_isSome 0 n, h]; rfl
  obtain ⟨k, hk⟩ := s.not_answered_zero_iff.mp this
  exact read_fault hk

theorem write_of_true {reg : Addr} {l : List Byte} {s : State} (h : s.answered 0 = true) :
    write reg l s = .ok () (s.writeDone reg l) := by
  obtain ⟨b, hb⟩ := s.answered_zero_iff.mp h
  exact write_ok hb

theorem write_of_false {reg : Addr} {l : List Byte} {s : State} (h : s.answered 0 = false) :
    write reg l s = .raise .transportError (s.writeFailed reg l) := by
  obtain ⟨k, hk⟩ := s.not_answered_zero_iff.mp h
  exact write_fault hk

/-- The event of a read that is answered, by what was received. -/
theorem State.readDone_event {n : Nat} {s : State} {b : List Byte} (h : s.received 0 n = some b) : s.chipBytes n = b := by
  unfold received at h
  split at h
  · exact Option.some.inj h
  · cases h

/-! ## Movement over the bus -/

/-- `t` is `s` after the transactions whose events are `events`, one answer taken for each: only the transport's registers,
the trace and the environment's fields differ, and the sequencer is idle. -/
structure BusMoved (s t : State) (events : List Event) : Prop where
  ctl : t.ctl = s.ctl
  initAttempt : t.initAttempt = s.initAttempt
  rx : t.rx = s.rx
  clk : t.clk = s.clk
  gpio : t.gpio = s.gpio
  results : t.results = s.results
  par : t.par = s.par
  calls : t.calls = s.calls
  phase : t.seq.phase = .idle
  trace : t.trace = s.trace ++ events
  script : t.script = s.script.drop events.length
  free : t.free = s.free + events.length

theorem BusMoved.trans {s t u : State} {es fs : List Event} (h : BusMoved s t es) (g : BusMoved t u fs) :
    BusMoved s u (es ++ fs) where
  ctl := g.ctl.trans h.ctl
  initAttempt := g.initAttempt.trans h.initAttempt
  rx := g.rx.trans h.rx
  clk := g.clk.trans h.clk
  gpio := g.gpio.trans h.gpio
  results := g.results.trans h.results
  par := g.par.trans h.par
  calls := g.calls.trans h.calls
  phase := g.phase
  trace := by rw [g.trace, h.trace, List.append_assoc]
  script := by rw [g.script, h.script, List.drop_drop, List.length_append]
  free := by rw [g.free, h.free, List.length_append]; omega

/-- The answers that come after a movement. -/
theorem BusMoved.answered {s t : State} {es : List Event} (h : BusMoved s t es) (j : Nat) :
    t.answered j = s.answered (es.length + j) := State.answered_add h.script h.free j

theorem BusMoved.received {s t : State} {es : List Event} (h : BusMoved s t es) (j n : Nat) :
    t.received j n = s.received (es.length + j) n := State.received_add h.script h.free j n

theorem readDone_moved {reg : Addr} {n : Nat} {s : State} {b : List Byte} (h : s.received 0 n = some b) :
    BusMoved s (s.readDone reg n) [.busRead (encodeHeader Config.opRead reg) n (some b)] := by
  constructor <;> simp [State.readDone_event h]

theorem readFailed_moved {reg : Addr} {n : Nat} {s : State} (h : s.received 0 n = none) :
    BusMoved s (s.readFailed reg n) [.busRead (encodeHeader Config.opRead reg) n none] := by
  have : s.answered 0 = false := by rw [← s.received_isSome 0 n, h]; rfl
  obtain ⟨k, hk⟩ := s.not_answered_zero_iff.mp this
  constructor <;> simp [State.readFailed_phase hk]

theorem writeDone_moved {reg : Addr} {l : List Byte} {s : State} :
    BusMoved s (s.writeDone reg l) [.busWrite (encodeHeader Config.opWrite reg) l true] := by
  constructor <;> simp

theorem writeFailed_moved {reg : Addr} {l : List Byte} {s : State} (h : s.answered 0 = false) :
    BusMoved s (s.writeFailed reg l) [.busWrite (encodeHeader Config.opWrite reg) l false] := by
  obtain ⟨k, hk⟩ := s.not_answered_zero_iff.mp h
  constructor <;> simp [State.writeFailed_phase hk]

/-- Everything `read` can do, as a movement. -/
theorem read_moves (reg : Addr) (n : Nat) (s : State) :
    ∃ t, BusMoved s t [.busRead (encodeHeader Config.opRead reg) n (s.received 0 n)] ∧ t.op = ⟨reg, n, .rd⟩ ∧
      ((∃ b, s.received 0 n = some b ∧ read reg n s = .ok b t) ∨
        (s.received 0 n = none ∧ read reg n s = .raise .transportError t)) := by
  cases h : s.received 0 n with
  | some b => exact ⟨_, readDone_moved h, rfl, .inl ⟨b, rfl, read_of_some h⟩⟩
  | none => exact ⟨_, readFailed_moved h, rfl, .inr ⟨rfl, read_of_none h⟩⟩

/-- Everything `write` can do, as a movement. -/
theorem write_moves (reg : Addr) (l : List Byte) (s : State) :
    ∃ t, BusMoved s t [.busWrite (encodeHeader Config.opWrite reg) l (s.answered 0)] ∧ t.op = ⟨reg, l.length, .wr⟩ ∧
      ((s.answered 0 = true ∧ write reg l s = .ok () t) ∨
        (s.answered 0 = false ∧ write reg l s = .raise .transportError t)) := by
  cases h : s.answered 0 with
  | true => exact ⟨_, writeDone_moved, rfl, .inl ⟨rfl, write_of_true h⟩⟩
  | false => exact ⟨_, writeFailed_moved h, rfl, .inr ⟨rfl, write_of_false h⟩⟩

end Sys2Proof.Machine
end

