-- ==== Sys2Proof/Laws/Exec.lean ====
section
/-! SUPPORT. When an operation completes: `exec` is admission and then the operation's own effect. -/

namespace Sys2Proof.Machine

/-- The state in which an accepted operation ends, for every operation. -/
def runOp : Instr → State → State
  | .rdS reg len, s => (read (reg.setWidth 15) len s).finish .bytes
  | .wrS reg payload, s => (write (reg.setWidth 15) payload s).finish fun _ => .none
  | .rdX reg len, s => (read reg len s).finish .bytes
  | .wrX reg payload, s => (write reg payload s).finish fun _ => .none
  | .init, s => runInit s
  | .configure cfg, s => (runConfigure cfg s).finish fun _ => .none
  | .rxEnable _, s => (runRxEnable s).finish fun _ => .none
  | .isFrameReady, s => (runIsFrameReady s).finish .bit
  | .readFrame, s => ((runReadFrame s).onRaise State.loseRx).finish .frame
  | .reset, s => (runReset s).finish fun _ => .none

theorem exec_eq_accept (i : Instr) (s : State) : exec i s = s.accept i (runOp i s) := by
  cases i <;> rfl

theorem admits_iff (i : Instr) (c : CtlState) : admits i c = true ↔ c ∈ admittedStates i := by
  cases i <;> cases c <;> simp [admits, admittedStates]

theorem tooLong_none_iff (p : Config.Params) (i : Instr) : tooLong p i = none ↔ LengthsFit p i := by
  cases i <;> simp [tooLong, transferLengths, LengthsFit]

/-- An operation answers a next state exactly when it is accepted, and then it is its own effect. -/
theorem exec_next_iff (i : Instr) (s t : State) :
    exec i s = .next t ↔
      s.seq.phase = .idle ∧ s.ctl.state ∈ admittedStates i ∧ LengthsFit s.par i ∧ t = runOp i s := by
  rw [exec_eq_accept, State.accept, ← admits_iff, ← tooLong_none_iff]
  by_cases h1 : s.seq.phase = .idle
  · by_cases h2 : admits i s.ctl.state = true
    · cases h3 : tooLong s.par i with
      | none => simp [h1, h2, eq_comm]
      | some n => simp [h1, h2]
    · simp [h1, h2]
  · simp [h1]

theorem exec_of_accepted {i : Instr} {s : State} (h1 : s.seq.phase = .idle) (h2 : s.ctl.state ∈ admittedStates i)
    (h3 : LengthsFit s.par i) : exec i s = .next (runOp i s) :=
  (exec_next_iff i s _).mpr ⟨h1, h2, h3, rfl⟩

theorem exec_not_admitted {i : Instr} {s : State} (h1 : s.seq.phase = .idle) (h2 : s.ctl.state ∉ admittedStates i) :
    exec i s = .refused (.notAdmitted s.ctl.state) := by
  have h : ¬ admits i s.ctl.state = true := fun h => h2 ((admits_iff i _).mp h)
  rw [exec_eq_accept, State.accept, if_pos h1, if_neg h]

/-- An admitted operation with a transfer that is too long is refused, under the length of that transfer. -/
theorem exec_too_long {i : Instr} {s : State} (h1 : s.seq.phase = .idle) (h2 : s.ctl.state ∈ admittedStates i)
    (h3 : ¬ LengthsFit s.par i) : ∃ n, s.par.maxXferLen < n ∧ exec i s = .refused (.transferTooLong n) := by
  rw [← tooLong_none_iff] at h3
  obtain ⟨n, hn⟩ := Option.ne_none_iff_exists'.mp h3
  refine ⟨n, of_decide_eq_true (List.find?_some (p := fun n => decide (s.par.maxXferLen < n)) hn), ?_⟩
  rw [exec_eq_accept, State.accept, if_pos h1, if_pos ((admits_iff i _).mpr h2), hn]

end Sys2Proof.Machine
end

