-- ==== Sys2Proof/Laws/Bringup.lean ====
section
/-! SUPPORT. What `init` can do, said once: the states after its sequences, and the identity loop by the answers it gets. -/

namespace Sys2Proof.Machine

/-! ## Up to the identity loop -/

theorem prepareChip_trace (s : State) : (prepareChip s).trace = s.trace ++ bringUpEvents s.par := by
  simp [prepareChip, resetSequence, wakeSequence, bringUpEvents]

/-- The wake sequence within the bring-up's events. -/
theorem bringUpEvents_wake (p : Config.Params) :
    bringUpEvents p = [.clkSet .slow] ++ wakeEvents p ++
      [.gpioSet .resetN false, .delay p.tResetHold, .gpioSet .resetN true, .delay p.tResetSettle] := rfl

theorem prepareChip_gpio (s : State) : (prepareChip s).gpio = ⟨true, true⟩ := by
  simp [prepareChip, resetSequence, wakeSequence]

theorem prepareChip_clk (s : State) : (prepareChip s).clk = .slow := by
  simp [prepareChip, resetSequence, wakeSequence]

theorem prepareChip_rest (s : State) :
    (prepareChip s).ctl = s.ctl ∧ (prepareChip s).initAttempt = 0 ∧ (prepareChip s).op = s.op ∧
      (prepareChip s).seq = s.seq ∧ (prepareChip s).rx = s.rx ∧ (prepareChip s).results = s.results ∧
      (prepareChip s).par = s.par ∧ (prepareChip s).calls = s.calls ∧ (prepareChip s).script = s.script ∧
      (prepareChip s).free = s.free := by
  simp [prepareChip, resetSequence, wakeSequence]

/-! ## The identity loop -/

/-- `t` is `s` after the identity attempts whose answers are `tried`, a retry delay between each two (R127, R128). -/
structure Attempted (s t : State) (tried : List (Option (List Byte))) : Prop where
  ctl : t.ctl = s.ctl
  initAttempt : t.initAttempt = s.initAttempt + tried.length
  op : t.op.len = Config.lenDevId
  rx : t.rx = s.rx
  clk : t.clk = s.clk
  gpio : t.gpio = s.gpio
  results : t.results = s.results
  par : t.par = s.par
  calls : t.calls = s.calls
  phase : t.seq.phase = .idle
  trace : t.trace = s.trace ++ identityEvents s.par tried
  script : t.script = s.script.drop tried.length
  free : t.free = s.free + tried.length

theorem identityAttempt_does (s : State) :
    ∃ t, identityAttempt s = (s.received 0 Config.lenDevId, t) ∧ Attempted s t [s.received 0 Config.lenDevId] := by
  cases h : s.received 0 Config.lenDevId with
  | some b =>
    obtain ⟨b', hb⟩ := s.answered_zero_iff.mp (State.answered_of_received h)
    refine ⟨(s.readDone s.par.regDevId Config.lenDevId).setAttempt (s.initAttempt + 1), ?_, ?_⟩
    · simp [identityAttempt, busRead_ok hb, State.readDone_event h]
    · constructor <;> simp [identityEvents, identityEvent, State.readDone_event h]
  | none =>
    have : s.answered 0 = false := by rw [← s.received_isSome 0 Config.lenDevId, h]; rfl
    obtain ⟨k, hk⟩ := s.not_answered_zero_iff.mp this
    refine ⟨(s.readFailed s.par.regDevId Config.lenDevId).setAttempt (s.initAttempt + 1), ?_, ?_⟩
    · simp [identityAttempt, busRead_fault hk]
    · constructor <;> simp [identityEvents, identityEvent, State.readFailed_phase hk]

/-! ## The judgement of an attempt -/

theorem judge_some (p : Config.Params) (b : List Byte) :
    judge p (some b) =
      if BitVec.ofNat 32 (le b) = 0x00000000#32 ∨ BitVec.ofNat 32 (le b) = 0xFFFFFFFF#32 then .failed
      else if (BitVec.ofNat 32 (le b)).extractLsb' 8 24 = p.devIdHi24 then .verified
      else .mismatch := rfl

theorem judge_verified_iff (p : Config.Params) (x : Option (List Byte)) :
    judge p x = .verified ↔ ∃ b, x = some b ∧ BitVec.ofNat 32 (le b) ≠ 0x00000000#32 ∧
      BitVec.ofNat 32 (le b) ≠ 0xFFFFFFFF#32 ∧ (BitVec.ofNat 32 (le b)).extractLsb' 8 24 = p.devIdHi24 := by
  cases x with
  | none => simp [judge]
  | some b =>
    rw [judge_some]
    split
    · next h => simp; tauto
    · next h =>
      rw [not_or] at h
      split <;> simp_all

theorem judge_mismatch_iff (p : Config.Params) (x : Option (List Byte)) :
    judge p x = .mismatch ↔ ∃ b, x = some b ∧ BitVec.ofNat 32 (le b) ≠ 0x00000000#32 ∧
      BitVec.ofNat 32 (le b) ≠ 0xFFFFFFFF#32 ∧ (BitVec.ofNat 32 (le b)).extractLsb' 8 24 ≠ p.devIdHi24 := by
  cases x with
  | none => simp [judge]
  | some b =>
    rw [judge_some]
    split
    · next h => simp; tauto
    · next h =>
      rw [not_or] at h
      split <;> simp_all

/-- What the identity loop answers when its last attempt is judged `v`. -/
def loopResult (p : Config.Params) : Verdict → Option Error
  | .verified => none
  | .mismatch => some .invalidDeviceId
  | .failed => some (exhaustError p)

/-- The identity loop run forward: after the failed attempts `bad`, an attempt with the answer `b` that is verified, is a
mismatch, or is the last one allowed, ends it. -/
theorem identityLoop_ends : ∀ (bad : List (Option (List Byte))) (n : Nat) (s : State) (b : Option (List Byte)),
    bad.length < n →
    (∀ k x, bad[k]? = some x → s.received k Config.lenDevId = x ∧ judge s.par x = .failed) →
    s.received bad.length Config.lenDevId = b → (judge s.par b = .failed → bad.length + 1 = n) →
    ∃ t, identityLoop n s = (loopResult s.par (judge s.par b), t) ∧ Attempted s t (bad ++ [b]) := by
  intro bad
  induction bad with
  | nil =>
    intro n s b hn _ hb hlast
    obtain ⟨m, rfl⟩ : ∃ m, n = m + 1 := ⟨n - 1, by simp at hn; omega⟩
    obtain ⟨t, ht, hm⟩ := identityAttempt_does s
    simp only [List.length_nil] at hb hlast
    rw [hb] at ht hm
    refine ⟨t, ?_, hm⟩
    simp only [identityLoop, ht]
    cases hj : judge s.par b with
    | verified => rfl
    | mismatch => rfl
    | failed =>
      have : m = 0 := by have := hlast hj; omega
      simp [this, loopResult]
  | cons x bad ih =>
    intro n s b hn hbad hb hlast
    obtain ⟨m, rfl⟩ : ∃ m, n = m + 1 := ⟨n - 1, by simp at hn; omega⟩
    obtain ⟨hx, hjx⟩ := hbad 0 x rfl
    obtain ⟨t, ht, hm⟩ := identityAttempt_does s
    rw [hx] at ht hm
    have hm0 : m ≠ 0 := by simp at hn; omega
    have hmove : ∀ j, (t.delay s.par.tIdRetry).received j Config.lenDevId = s.received (j + 1) Config.lenDevId := by
      intro j
      have := State.received_add (s := s) (t := t.delay s.par.tIdRetry) (k := 1) (by simp [hm.script])
        (by simp [hm.free]) j Config.lenDevId
      rw [this, Nat.add_comm]
    obtain ⟨u, hu, hmu⟩ := ih m (t.delay s.par.tIdRetry) b (by simp at hn; omega)
      (by
        intro k y hy
        rw [hmove]
        simp only [State.delay_par, hm.par]
        exact hbad (k + 1) y (by simpa using hy))
      (by rw [hmove]; simpa using hb)
      (by
        intro hj
        simp only [State.delay_par, hm.par] at hj
        have := hlast hj
        simp at this
        omega)
    refine ⟨u, ?_, ?_⟩
    · simp only [identityLoop, ht, hjx, if_neg hm0]
      rw [hu]
      simp [hm.par]
    · have htr : identityEvents s.par (x :: bad ++ [b]) =
          identityEvent s.par x :: .delay s.par.tIdRetry :: identityEvents s.par (bad ++ [b]) := by
        cases bad <;> rfl
      constructor
      · simp [hmu.ctl, hm.ctl]
      · simp [hmu.initAttempt, hm.initAttempt]; omega
      · exact hmu.op
      · simp [hmu.rx, hm.rx]
      · simp [hmu.clk, hm.clk]
      · simp [hmu.gpio, hm.gpio]
      · simp [hmu.results, hm.results]
      · simp [hmu.par, hm.par]
      · simp [hmu.calls, hm.calls]
      · exact hmu.phase
      · rw [hmu.trace, htr]
        simp [hm.trace, hm.par, identityEvents]
      · simp [hmu.script, hm.script]
      · simp [hmu.free, hm.free]; omega

/-- Among the first `n` places there is one up to which `f` holds and which fails it or is the last. -/
theorem first_failure_or_last (f : Nat → Prop) : ∀ n, 0 < n →
    ∃ m, m < n ∧ (∀ k, k < m → f k) ∧ (f m → m + 1 = n) := by
  intro n
  induction n with
  | zero => intro h; omega
  | succ n ih =>
    intro _
    rcases Nat.eq_zero_or_pos n with rfl | hn
    · exact ⟨0, by omega, by omega, fun _ => rfl⟩
    · obtain ⟨m, hm, hf, hl⟩ := ih hn
      by_cases h : f m
      · by_cases h' : m + 1 = n
        · refine ⟨n, by omega, ?_, fun _ => rfl⟩
          intro k hk
          rcases Nat.lt_or_ge k m with h1 | h1
          · exact hf k h1
          · obtain rfl : k = m := by omega
            exact h
        · exact absurd (hl h) h'
      · exact ⟨m, by omega, hf, fun h' => absurd h' h⟩

/-- Everything the identity loop can do: some failed attempts, and a last one that is verified, a mismatch, or the last
allowed. -/
theorem identityLoop_cases (n : Nat) (s : State) (hn : 0 < n) :
    ∃ bad b t, bad.length < n ∧ (∀ x ∈ bad, judge s.par x = .failed) ∧
      (judge s.par b = .failed → bad.length + 1 = n) ∧ s.received bad.length Config.lenDevId = b ∧
      identityLoop n s = (loopResult s.par (judge s.par b), t) ∧ Attempted s t (bad ++ [b]) := by
  obtain ⟨m, hm, hf, hl⟩ := first_failure_or_last
    (fun k => judge s.par (s.received k Config.lenDevId) = .failed) n hn
  have hlen : ((List.range m).map fun k => s.received k Config.lenDevId).length = m := by simp
  obtain ⟨t, ht, ha⟩ := identityLoop_ends ((List.range m).map fun k => s.received k Config.lenDevId) n s
    (s.received m Config.lenDevId) (by rw [hlen]; exact hm)
    (by
      intro k x hx
      simp only [List.getElem?_map, Option.map_eq_some_iff] at hx
      obtain ⟨j, hj, rfl⟩ := hx
      obtain ⟨hjm, rfl⟩ := List.getElem?_eq_some_iff.mp hj
      simp only [List.length_range] at hjm
      simp only [List.getElem_range, true_and]
      exact hf k hjm)
    (by rw [hlen]) (by rw [hlen]; exact hl)
  refine ⟨_, _, t, by rw [hlen]; exact hm, ?_, by rw [hlen]; exact hl, by rw [hlen], ht, ha⟩
  intro x hx
  simp only [List.mem_map, List.mem_range] at hx
  obtain ⟨k, hk, rfl⟩ := hx
  exact hf k hk

/-! ## init as a whole -/

theorem Config.Params.nIdAttempts_pos (p : Config.Params) : 0 < p.nIdAttempts := by
  have := p.okay
  simp only [Config.RawParams.ok, Bool.and_eq_true, decide_eq_true_eq] at this
  omega

theorem Config.Params.rxBufCap_le (p : Config.Params) : 127 ≤ p.maxXferLen := by
  have := p.okay
  simp only [Config.RawParams.ok, Config.rxBufCap, Bool.and_eq_true, decide_eq_true_eq] at this
  omega

/-- The state at the end of the identity loop, `bad` the failed attempts and `b` the last one's answer. -/
structure BroughtUp (s t : State) (tried : List (Option (List Byte))) : Prop where
  ctl : t.ctl = s.ctl
  initAttempt : t.initAttempt = tried.length
  op : t.op.len = Config.lenDevId
  rx : t.rx = s.rx
  clk : t.clk = .slow
  gpio : t.gpio = ⟨true, true⟩
  results : t.results = s.results
  par : t.par = s.par
  calls : t.calls = s.calls
  phase : t.seq.phase = .idle
  trace : t.trace = s.trace ++ [Event.acquire true] ++ bringUpEvents s.par ++ identityEvents s.par tried

theorem broughtUp_of_attempted {s t : State} {tried : List (Option (List Byte))} (ha : s.available = true)
    (h : Attempted (prepareChip s.acquire) t tried) : BroughtUp s t tried := by
  obtain ⟨h1, h2, h3, h4, h5, h6, h7, h8, h9, h10⟩ := prepareChip_rest s.acquire
  constructor
  · rw [h.ctl, h1]; simp
  · rw [h.initAttempt, h2]; omega
  · exact h.op
  · rw [h.rx, h5]; simp
  · rw [h.clk, prepareChip_clk]
  · rw [h.gpio, prepareChip_gpio]
  · rw [h.results, h6]; simp
  · rw [h.par, h7]; simp
  · rw [h.calls, h8]; simp
  · exact h.phase
  · rw [h.trace, h7, prepareChip_trace]; simp [ha]

/-- The end of `init` after the identity loop has answered `r` in the state `t` (R131, R132). -/
def endInit (t : State) : Option Error → State
  | none => ((t.setClk .fast).setCtlState .ready).respond (.ok .none)
  | some e => t.takeError e

theorem runInit_unavailable {s : State} (h : s.answered 0 = false) :
    runInit s = s.acquire.takeError .deviceNotReady := by
  have h' : s.available = false := h
  simp [runInit, h']

theorem runInit_available {s : State} (h : s.answered 0 = true) : runInit s = bringUp s.acquire := by
  have h' : s.available = true := h
  simp [runInit, h']

theorem bringUp_eq (s : State) :
    bringUp s = endInit (identityLoop s.par.nIdAttempts (prepareChip s)).2
      (identityLoop s.par.nIdAttempts (prepareChip s)).1 := by
  unfold bringUp
  split <;> simp_all [endInit]

theorem received_after_prepare (s : State) (k n : Nat) :
    (prepareChip s.acquire).received k n = s.received (k + 1) n := by
  obtain ⟨_, _, _, _, _, _, _, _, h9, h10⟩ := prepareChip_rest s.acquire
  rw [State.received_add (s := s) (k := 1) (by rw [h9]; simp) (by rw [h10]; simp), Nat.add_comm]

/-- `init` run forward, by the answers to its identity attempts. -/
theorem runInit_ends {s : State} (bad : List (Option (List Byte))) (b : Option (List Byte)) (h : s.answered 0 = true)
    (hn : bad.length < s.par.nIdAttempts)
    (hbad : ∀ k x, bad[k]? = some x → s.received (k + 1) Config.lenDevId = x ∧ judge s.par x = .failed)
    (hb : s.received (bad.length + 1) Config.lenDevId = b)
    (hlast : judge s.par b = .failed → bad.length + 1 = s.par.nIdAttempts) :
    ∃ t, BroughtUp s t (bad ++ [b]) ∧ runInit s = endInit t (loopResult s.par (judge s.par b)) := by
  have h' : s.available = true := h
  obtain ⟨_, _, _, _, _, _, h7, _, _, _⟩ := prepareChip_rest s.acquire
  have hp : (prepareChip s.acquire).par = s.par := by rw [h7]; simp
  obtain ⟨t, ht, ha⟩ := identityLoop_ends bad s.par.nIdAttempts (prepareChip s.acquire) b hn
    (by intro k x hx; rw [received_after_prepare, hp]; exact hbad k x hx)
    (by rw [received_after_prepare]; exact hb) (by rw [hp]; exact hlast)
  refine ⟨t, broughtUp_of_attempted h' ha, ?_⟩
  rw [runInit_available h, bringUp_eq, show s.acquire.par = s.par from rfl, ht, hp]

/-- Everything `init` can do once accepted: no resources; or the chip is brought up to the end of the identity loop, whose
last attempt decides the result. -/
theorem runInit_cases (s : State) :
    (s.answered 0 = false ∧ runInit s = s.acquire.takeError .deviceNotReady) ∨
    (s.answered 0 = true ∧ ∃ bad b t, BroughtUp s t (bad ++ [b]) ∧ bad.length < s.par.nIdAttempts ∧
      (∀ x ∈ bad, judge s.par x = .failed) ∧ (judge s.par b = .failed → bad.length + 1 = s.par.nIdAttempts) ∧
      runInit s = endInit t (loopResult s.par (judge s.par b))) := by
  cases h : s.answered 0 with
  | false => exact .inl ⟨rfl, runInit_unavailable h⟩
  | true =>
    have h' : s.available = true := h
    obtain ⟨_, _, _, _, _, _, h7, _, _, _⟩ := prepareChip_rest s.acquire
    have hp : (prepareChip s.acquire).par = s.par := by rw [h7]; simp
    obtain ⟨bad, b, t, hn, hbad, hlast, hb, ht, ha⟩ :=
      identityLoop_cases s.par.nIdAttempts (prepareChip s.acquire) (Config.Params.nIdAttempts_pos s.par)
    rw [hp] at hbad hlast
    refine .inr ⟨rfl, bad, b, t, broughtUp_of_attempted h' ha, hn, hbad, hlast, ?_⟩
    rw [runInit_available h, bringUp_eq, show s.acquire.par = s.par from rfl, ht, hp]

end Sys2Proof.Machine
end

