-- ==== Sys2Proof/Laws/Decode.lean ====
section
/-! SUPPORT. The bits of the two encodings: `cmd.arg` as a ChipConfig, and the header forms. -/

namespace Sys2Proof

/-- Bit `i` of `cmd.arg`, by the field it lies in. -/
theorem argOfConfig_bit (c : ChipConfig) (i : Nat) :
    (argOfConfig c).getLsbD i =
      if i < 8 then c.channel.getLsbD i
      else if i - 8 < 8 then c.prf.getLsbD (i - 8)
      else if i - 8 - 8 < 16 then c.preambleLen.getLsbD (i - 8 - 8)
      else if i - 8 - 8 - 16 < 8 then c.pacSize.getLsbD (i - 8 - 8 - 16)
      else c.preambleCode.getLsbD (i - 8 - 8 - 16 - 8) := by
  show BitVec.getLsbD (w := 8 + 8 + 16 + 8 + 8)
    (c.preambleCode ++ c.pacSize ++ c.preambleLen ++ c.prf ++ c.channel) i = _
  simp only [BitVec.getLsbD_append]

/-- No bit of a configuration is lost on `cmd.arg`. -/
theorem configOfArg_argOfConfig (c : ChipConfig) : configOfArg (argOfConfig c) = c := by
  obtain ⟨channel, prf, preambleLen, pacSize, preambleCode⟩ := c
  simp only [configOfArg, ChipConfig.mk.injEq]
  refine ⟨?_, ?_, ?_, ?_, ?_⟩ <;>
  · apply BitVec.eq_of_getLsbD_eq
    intro i hi
    rw [BitVec.getLsbD_extractLsb', argOfConfig_bit]
    interval_cases i <;> rfl

/-- The header of a short address. -/
theorem encodeHeader_short {op : Byte} {reg : Addr} (h : reg.toNat < 0x80) :
    encodeHeader op reg = [op ||| (reg &&& 0x3F#15).setWidth 8] := by
  rw [encodeHeader, if_pos h]
  rfl

/-- The header of an address that is not short. -/
theorem encodeHeader_long {op : Byte} {reg : Addr} (h : 0x80 ≤ reg.toNat) :
    encodeHeader op reg =
      [op ||| 0x40#8, (reg &&& 0x7F#15).setWidth 8, ((reg >>> 7) &&& 0xFF#15).setWidth 8] := by
  have : ¬ reg.toNat < Config.shortLimit := by simp only [Config.shortLimit]; omega
  rw [encodeHeader, if_neg this]
  rfl

end Sys2Proof
end

