-- ==== Sys2Proof/Laws/Runtime.lean ====
section
/-! SUPPORT. What the run-time operations can do, said once each: the movement over the bus, and how the operation ends. -/

namespace Sys2Proof.Machine

/-! ## Operations of one transaction -/

theorem runRxEnable_cases (s : State) :
    ∃ u, BusMoved s u [.busWrite (encodeHeader Config.opWrite s.par.regSysCfg) s.par.rxEnableCmd (s.answered 0)] ∧
      u.op = ⟨s.par.regSysCfg, s.par.rxEnableCmd.length, .wr⟩ ∧
      ((s.answered 0 = true ∧ runRxEnable s = .ok () (u.setCtlState .listening)) ∨
        (s.answered 0 = false ∧ runRxEnable s = .raise .transportError u)) := by
  obtain ⟨u, hu, ho, h⟩ := write_moves s.par.regSysCfg s.par.rxEnableCmd s
  refine ⟨u, hu, ho, h.imp ?_ ?_⟩ <;> rintro ⟨ha, hw⟩ <;> exact ⟨ha, by simp [runRxEnable, hw, Run.andThen]⟩

theorem runIsFrameReady_cases (s : State) :
    ∃ u, BusMoved s u [.busRead (encodeHeader Config.opRead s.par.regSysStatus) s.par.lenSysStatus
        (s.received 0 s.par.lenSysStatus)] ∧
      u.op = ⟨s.par.regSysStatus, s.par.lenSysStatus, .rd⟩ ∧
      runIsFrameReady s = .ok (match s.received 0 s.par.lenSysStatus with
        | some status => frameReadyIn s.par status
        | none => false) u := by
  obtain ⟨u, hu, ho, ⟨b, hb, hr⟩ | ⟨hb, hr⟩⟩ := read_moves s.par.regSysStatus s.par.lenSysStatus s <;>
    exact ⟨u, hu, ho, by simp [runIsFrameReady, hr, hb, Run.andThen, Run.recover, hu.par]⟩

theorem runReset_cases (s : State) :
    ∃ u, BusMoved s u [.busWrite (encodeHeader Config.opWrite s.par.regSoftReset) [s.par.softResetCmd] (s.answered 0)] ∧
      u.op = ⟨s.par.regSoftReset, 1, .wr⟩ ∧
      ((s.answered 0 = true ∧ runReset s = .ok () ((u.delay s.par.tSoftResetSettle).setCtlState .ready)) ∨
        (s.answered 0 = false ∧ runReset s = .raise .transportError u)) := by
  obtain ⟨u, hu, ho, h⟩ := write_moves s.par.regSoftReset [s.par.softResetCmd] s
  refine ⟨u, hu, ho, h.imp ?_ ?_⟩ <;> rintro ⟨ha, hw⟩ <;> exact ⟨ha, by simp [runReset, hw, Run.andThen, hu.par]⟩

/-! ## configure -/

/-- The two writes of `configure`, each with its answer (R140). -/
def configureEvents (cfg : ChipConfig) (s : State) : List Event :=
  [.busWrite (encodeHeader Config.opWrite s.par.regSysCfg) (encSysCfg s.par cfg.channel cfg.prf) (s.answered 0),
   .busWrite (encodeHeader Config.opWrite s.par.regPreambleCfg) (encPreamble s.par cfg.preambleLen) (s.answered 1)]

theorem runConfigure_cases (cfg : ChipConfig) (s : State) :
    (s.answered 0 = false ∧ ∃ u, BusMoved s u ((configureEvents cfg s).take 1) ∧
      u.op.len = (encSysCfg s.par cfg.channel cfg.prf).length ∧ runConfigure cfg s = .raise .transportError u) ∨
    (s.answered 0 = true ∧ ∃ u, BusMoved s u (configureEvents cfg s) ∧
      u.op.len = (encPreamble s.par cfg.preambleLen).length ∧
      ((s.answered 1 = true ∧ runConfigure cfg s = .ok () ((u.latchCfg cfg).setCtlState .configured)) ∨
        (s.answered 1 = false ∧ runConfigure cfg s = .raise .transportError u))) := by
  obtain ⟨u, hu, ho, ⟨ha, hw⟩ | ⟨ha, hw⟩⟩ := write_moves s.par.regSysCfg (encSysCfg s.par cfg.channel cfg.prf) s
  · right
    obtain ⟨v, hv, ho', h⟩ := write_moves s.par.regPreambleCfg (encPreamble s.par cfg.preambleLen) u
    rw [hu.answered] at hv h
    refine ⟨ha, v, hu.trans hv, by simp [ho'], h.imp ?_ ?_⟩ <;> rintro ⟨hb, hw'⟩ <;>
      exact ⟨by simpa using hb, by simp [runConfigure, hw, hw', Run.andThen, hu.par]⟩
  · exact .inl ⟨ha, u, hu, by simp [ho], by simp [runConfigure, hw, Run.andThen]⟩

/-! ## readFrame -/

/-- How the six transactions of `readFrame` go: the first `k` are answered and the next is faulted, or all are answered with
the given bytes. -/
theorem runReadFrame_cases (s : State) :
    (∃ k u, k < 6 ∧ (∀ j, j < k → s.answered j = true) ∧ s.answered k = false ∧
      BusMoved s u ((readFrameEvents s).take (k + 1)) ∧
      u.op.len ≤ max s.par.lenRxFinfo (max 127 (max s.par.lenRxFqual s.par.lenSysStatus)) ∧
      runReadFrame s = .raise .transportError u) ∨
    (∃ fi data t q qb u, s.received 0 s.par.lenRxFinfo = some fi ∧
      s.received 1 (clampLength (frameLength s.par fi)) = some data ∧ s.received 2 5 = some t ∧
      s.received 3 s.par.lenRxFqual = some q ∧ s.received 4 1 = some qb ∧ s.answered 5 = true ∧
      BusMoved s u (readFrameEvents s) ∧ u.op.len = s.par.lenSysStatus ∧
      runReadFrame s = .ok (frameOf (loadRx s.par data t q qb s.rx))
        ((u.setRx (loadRx s.par data t q qb s.rx)).setCtlState .configured)) := by
  obtain ⟨u0, m0, o0, ⟨fi, b0, r0⟩ | ⟨b0, r0⟩⟩ := read_moves s.par.regRxFinfo s.par.lenRxFinfo s
  case inr =>
    refine .inl ⟨0, u0, by omega, by omega, ?_, m0, ?_, by simp [runReadFrame, r0, Run.andThen]⟩
    · simpa using State.not_answered_of_none b0
    · simp [o0]
  have a0 := State.answered_of_received b0
  have hlen : bufferReadLength s = clampLength (frameLength s.par fi) := by
    simp [bufferReadLength, b0, clampLength, frameLength, fieldOf, Config.rxBufCap, Config.flenWidth]
  obtain ⟨u1, m1, o1, h1⟩ := read_moves s.par.regRxBuffer (clampLength (frameLength s.par fi)) u0
  have m1 := m0.trans m1
  rw [m0.received] at m1 h1
  rcases h1 with ⟨data, b1, r1⟩ | ⟨b1, r1⟩
  case inr =>
    refine .inl ⟨1, u1, by omega, ?_, ?_, by simpa [readFrameEvents, hlen] using m1, ?_,
      by simp [runReadFrame, r0, m0.par, r1, Run.andThen]⟩
    · intro j hj; obtain rfl : j = 0 := by omega
      exact a0
    · simpa using State.not_answered_of_none b1
    · have := clampLength_le (frameLength s.par fi)
      simp only [o1]; omega
  have a1 := State.answered_of_received b1
  obtain ⟨u2, m2, o2, h2⟩ := read_moves s.par.regRxTime Config.lenRxTime u1
  rw [m1.received] at m2 h2
  have m2 := m1.trans m2
  rcases h2 with ⟨t, b2, r2⟩ | ⟨b2, r2⟩
  case inr =>
    refine .inl ⟨2, u2, by omega, ?_, ?_, by simpa [readFrameEvents, hlen] using m2, ?_,
      by simp [runReadFrame, r0, m0.par, r1, m1.par, r2, Run.andThen]⟩
    · intro j hj
      obtain rfl | rfl : j = 0 ∨ j = 1 := by omega
      · exact a0
      · exact a1
    · simpa using State.not_answered_of_none b2
    · simp only [o2, Config.lenRxTime]; omega
  have a2 := State.answered_of_received b2
  obtain ⟨u3, m3, o3, h3⟩ := read_moves s.par.regRxFqual s.par.lenRxFqual u2
  rw [m2.received] at m3 h3
  have m3 := m2.trans m3
  rcases h3 with ⟨q, b3, r3⟩ | ⟨b3, r3⟩
  case inr =>
    refine .inl ⟨3, u3, by omega, ?_, ?_, by simpa [readFrameEvents, hlen] using m3, ?_,
      by simp [runReadFrame, r0, m0.par, r1, m1.par, r2, m2.par, r3, Run.andThen]⟩
    · intro j hj
      obtain rfl | rfl | rfl : j = 0 ∨ j = 1 ∨ j = 2 := by omega
      · exact a0
      · exact a1
      · exact a2
    · simpa using State.not_answered_of_none b3
    · simp only [o3]; omega
  have a3 := State.answered_of_received b3
  obtain ⟨u4, m4, o4, h4⟩ := read_moves s.par.regRxQbyte Config.lenQByte u3
  rw [m3.received] at m4 h4
  have m4 := m3.trans m4
  rcases h4 with ⟨qb, b4, r4⟩ | ⟨b4, r4⟩
  case inr =>
    refine .inl ⟨4, u4, by omega, ?_, ?_, by simpa [readFrameEvents, hlen] using m4, ?_,
      by simp [runReadFrame, r0, m0.par, r1, m1.par, r2, m2.par, r3, m3.par, r4, Run.andThen]⟩
    · intro j hj
      obtain rfl | rfl | rfl | rfl : j = 0 ∨ j = 1 ∨ j = 2 ∨ j = 3 := by omega
      · exact a0
      · exact a1
      · exact a2
      · exact a3
    · simpa using State.not_answered_of_none b4
    · simp only [o4, Config.lenQByte]; omega
  have a4 := State.answered_of_received b4
  obtain ⟨u5, m5, o5, h5⟩ := write_moves s.par.regSysStatus (statusClear s.par) u4
  rw [m4.answered] at m5 h5
  have m5 := m4.trans m5
  rcases h5 with ⟨b5, r5⟩ | ⟨b5, r5⟩
  case inr =>
    refine .inl ⟨5, u5, by omega, ?_, by simpa using b5,
      by simpa [readFrameEvents, hlen, statusClear, rep] using m5, ?_,
      by simp [runReadFrame, r0, m0.par, r1, m1.par, r2, m2.par, r3, m3.par, r4, m4.par, r5, Run.andThen]⟩
    · intro j hj
      obtain rfl | rfl | rfl | rfl | rfl : j = 0 ∨ j = 1 ∨ j = 2 ∨ j = 3 ∨ j = 4 := by omega
      · exact a0
      · exact a1
      · exact a2
      · exact a3
      · exact a4
    · simp only [o5, statusClear_length]; omega
  refine .inr ⟨fi, data, t, q, qb, u5, b0, b1, b2, b3, b4, by simpa using b5,
    by simpa [readFrameEvents, hlen, statusClear, rep] using m5, by simp [o5], ?_⟩
  simp [runReadFrame, r0, m0.par, r1, m1.par, r2, m2.par, r3, m3.par, r4, m4.par, r5, m5.par, m5.rx, Run.andThen]

end Sys2Proof.Machine
end

