-- ==== Sys2Proof/Laws/Operation.lean ====
section
/-! SUPPORT. What an accepted operation can do, said once for all operations: the inversion lemma the whole-machine statements
cite. -/

namespace Sys2Proof.Machine

/-- The events of consecutive attempts end in the last one's, with only attempts and retry delays before it. -/
theorem identityEvents_append (p : Config.Params) (bad : List (Option (List Byte))) (b : Option (List Byte)) :
    ∃ pre, identityEvents p (bad ++ [b]) = pre ++ [identityEvent p b] ∧
      (∀ e ∈ pre, e = .delay p.tIdRetry ∨ ∃ b, e = identityEvent p b) := by
  induction bad with
  | nil => exact ⟨[], rfl, by simp⟩
  | cons x bad ih =>
    obtain ⟨pre, h, hm⟩ := ih
    refine ⟨identityEvent p x :: .delay p.tIdRetry :: pre, ?_, ?_⟩
    · have : identityEvents p (x :: bad ++ [b]) =
          identityEvent p x :: .delay p.tIdRetry :: identityEvents p (bad ++ [b]) := by
        cases bad <;> rfl
      rw [this, h]; rfl
    · intro e he
      simp only [List.mem_cons] at he
      rcases he with rfl | rfl | he
      · exact .inr ⟨x, rfl⟩
      · exact .inl rfl
      · exact hm e he


/-- Events that leave both lines alone: transactions and delays. -/
inductive Event.IsQuiet : Event → Prop where
  | read (h : List Byte) (n : Nat) (r : Option (List Byte)) : IsQuiet (.busRead h n r)
  | write (h l : List Byte) (ok : Bool) : IsQuiet (.busWrite h l ok)
  | delay (t : Nat) : IsQuiet (.delay t)

@[simp] theorem Event.busRead_isQuiet (h : List Byte) (n : Nat) (r : Option (List Byte)) :
    (Event.busRead h n r).IsQuiet := .read h n r
@[simp] theorem Event.busWrite_isQuiet (h l : List Byte) (ok : Bool) : (Event.busWrite h l ok).IsQuiet := .write h l ok
@[simp] theorem Event.delay_isQuiet (t : Nat) : (Event.delay t).IsQuiet := .delay t

theorem Event.IsQuiet.onWakeLine {e : Event} (h : e.IsQuiet) : e.onWakeLine = false := by
  cases h <;> rfl

theorem readFrameEvents_quiet (s : State) : ∀ e ∈ readFrameEvents s, e.IsQuiet := by
  simp [readFrameEvents]

/-- What `exec` did when it answered the state `t`: its one result, its events, and what it left alone. -/
structure Completed (i : Instr) (s t : State) (r : Response) (events : List Event) : Prop where
  results : t.results = s.results ++ [r]
  trace : t.trace = s.trace ++ events
  par : t.par = s.par
  calls : t.calls = s.calls
  phase : t.seq.phase = .idle
  ctlOnError : ∀ e, r = .error e → t.ctl = s.ctl
  stateOnOk : ∀ v, r = .ok v → t.ctl.state = transition i s.ctl.state
  rx : i ≠ .readFrame → t.rx = s.rx
  cfg : (∀ cfg, i ≠ .configure cfg) → t.ctl.cfg = s.ctl.cfg ∧ t.ctl.cfgValid = s.ctl.cfgValid
  cfgOnOk : (∃ cfg, i = .configure cfg) → ∀ v, r = .ok v → t.ctl.cfgValid = true
  runTime : i ≠ .init → t.initAttempt = s.initAttempt ∧ t.clk = s.clk ∧ t.gpio = s.gpio ∧ ∀ e ∈ events, e.IsQuiet
  opLen : t.op.len ≤ s.par.maxXferLen ∨ t.op = s.op
  attempts : i = .init → s.answered 0 = true → t.initAttempt ≤ s.par.nIdAttempts
  attemptsKept : i = .init → s.answered 0 = false → t.initAttempt = s.initAttempt
  initOnOk : i = .init → ∀ v, r = .ok v → t.clk = .fast ∧ t.gpio = ⟨true, true⟩
  initPulse : i = .init → pulseAfter s.par s.trace = .none → pulseAfter s.par t.trace = .none
  initWake : i = .init → s.answered 0 = true → t.gpio.wake = true

/-- Quiet events after the end of every pulse start none. -/
theorem pulseAfter_quiet {p : Config.Params} {tr es : List Event} (h : pulseAfter p tr = .none)
    (he : ∀ e ∈ es, e.IsQuiet) : pulseAfter p (tr ++ es) = .none := by
  unfold pulseAfter at *
  rw [List.foldl_append, h]
  clear h
  induction es with
  | nil => rfl
  | cons e es ih =>
    have ih := ih fun e h => he e (by simp [h])
    cases he e (by simp) <;> exact ih

/-- The wake and reset sequences end their own pulses (R212). -/
theorem pulseAfter_bringUp {p : Config.Params} {tr : List Event} (h : pulseAfter p tr = .none) :
    pulseAfter p (tr ++ [Event.acquire true] ++ bringUpEvents p) = .none := by
  have hp : p.tResetHold < p.tResetSettle := by
    have := p.okay
    simp only [Config.RawParams.ok, Bool.and_eq_true, decide_eq_true_eq] at this
    omega
  unfold pulseAfter at *
  rw [List.foldl_append, List.foldl_append, h]
  simp [bringUpEvents, Pulse.next, hp]

/-- The inversion lemma of `exec`. -/
theorem exec_changes {i : Instr} {s t : State} (h : exec i s = .next t) : ∃ r events, Completed i s t r events := by
  have h127 := Config.Params.rxBufCap_le s.par
  obtain ⟨h1, h2, h3, rfl⟩ := (exec_next_iff _ _ _).mp h
  cases i with
  | rdS reg n =>
    obtain ⟨u, hu, ho, ⟨b, hb, hr⟩ | ⟨hb, hr⟩⟩ := read_moves (reg.setWidth 15) n s
    all_goals
      refine ⟨match s.received 0 n with | some b => .ok (.bytes b) | none => .error .transportError,
        [.busRead (encodeHeader Config.opRead (reg.setWidth 15)) n (s.received 0 n)], ?_⟩
      simp only [runOp, hr, Run.finish]
      constructor
      case results => simp [hu.results, *]; try rfl
      case trace => simp; exact hu.trace
      all_goals
        simp_all [hu.rx, hu.ctl, hu.par, hu.calls, hu.phase, hu.initAttempt, hu.clk, hu.gpio, transition, LengthsFit]
  | rdX reg n =>
    obtain ⟨u, hu, ho, ⟨b, hb, hr⟩ | ⟨hb, hr⟩⟩ := read_moves reg n s
    all_goals
      refine ⟨match s.received 0 n with | some b => .ok (.bytes b) | none => .error .transportError,
        [.busRead (encodeHeader Config.opRead reg) n (s.received 0 n)], ?_⟩
      simp only [runOp, hr, Run.finish]
      constructor
      case results => simp [hu.results, *]; try rfl
      case trace => simp; exact hu.trace
      all_goals
        simp_all [hu.rx, hu.ctl, hu.par, hu.calls, hu.phase, hu.initAttempt, hu.clk, hu.gpio, transition, LengthsFit]
  | wrS reg n =>
    obtain ⟨u, hu, ho, ⟨hb, hr⟩ | ⟨hb, hr⟩⟩ := write_moves (reg.setWidth 15) n s
    all_goals
      refine ⟨if s.answered 0 then .ok .none else .error .transportError,
        [.busWrite (encodeHeader Config.opWrite (reg.setWidth 15)) n (s.answered 0)], ?_⟩
      simp only [runOp, hr, Run.finish]
      constructor
      case results => simp [hu.results, *]; try rfl
      case trace => simp; exact hu.trace
      all_goals
        simp_all [hu.rx, hu.ctl, hu.par, hu.calls, hu.phase, hu.initAttempt, hu.clk, hu.gpio, transition, LengthsFit]
  | wrX reg n =>
    obtain ⟨u, hu, ho, ⟨hb, hr⟩ | ⟨hb, hr⟩⟩ := write_moves reg n s
    all_goals
      refine ⟨if s.answered 0 then .ok .none else .error .transportError,
        [.busWrite (encodeHeader Config.opWrite reg) n (s.answered 0)], ?_⟩
      simp only [runOp, hr, Run.finish]
      constructor
      case results => simp [hu.results, *]; try rfl
      case trace => simp; exact hu.trace
      all_goals
        simp_all [hu.rx, hu.ctl, hu.par, hu.calls, hu.phase, hu.initAttempt, hu.clk, hu.gpio, transition, LengthsFit]
  | init =>
    rcases runInit_cases s with ⟨ha, hr⟩ | ⟨ha, bad, b, t, ht, hn, _, _, hr⟩
    · refine ⟨.error .deviceNotReady, [.acquire false], ?_⟩
      have hav : s.available = false := ha
      simp only [runOp, hr]
      constructor
      case results => simp [State.acquire]
      case trace => simp [State.acquire, hav]
      case initPulse =>
        intro _ h
        simp only [pulseAfter] at h
        simp [State.acquire, pulseAfter, List.foldl_append, h, Pulse.next]
      all_goals simp_all [State.acquire]
    · obtain ⟨pre, he, hm⟩ := identityEvents_append s.par bad b
      have hpl : pulseAfter s.par s.trace = .none → pulseAfter s.par t.trace = .none := by
        intro h
        rw [ht.trace]
        refine pulseAfter_quiet (pulseAfter_bringUp h) ?_
        rw [he]; intro e h'
        simp only [List.mem_append, List.mem_singleton] at h'
        rcases h' with h' | rfl
        · rcases hm e h' with rfl | ⟨b, rfl⟩
          · exact .delay _
          · exact .read _ _ _
        · exact .read _ _ _
      cases hj : judge s.par b with
      | verified =>
        refine ⟨.ok .none,
        [.acquire true] ++ bringUpEvents s.par ++ identityEvents s.par (bad ++ [b]) ++ [Event.clkSet .fast], ?_⟩
        simp only [runOp, hr, hj, loopResult, endInit]
        constructor
        case results => simp [ht.results]
        case trace => simp [ht.trace]
        case initPulse =>
          intro _ h
          have := hpl h
          simp only [pulseAfter] at this
          simp [pulseAfter, List.foldl_append, this, Pulse.next]
        all_goals simp_all [ht.rx, ht.ctl, ht.par, ht.calls, ht.phase, ht.initAttempt, ht.gpio, transition, ht.op]
        all_goals (simp only [Config.lenDevId]; omega)
      | failed =>
        refine ⟨.error (exhaustError s.par),
          [.acquire true] ++ bringUpEvents s.par ++ identityEvents s.par (bad ++ [b]), ?_⟩
        simp only [runOp, hr, hj, loopResult, endInit]
        constructor
        case results => simp [ht.results]
        case trace => simp [ht.trace]
        all_goals simp_all [ht.rx, ht.ctl, ht.par, ht.calls, ht.phase, ht.initAttempt, ht.gpio, transition, ht.op]
        all_goals (simp only [Config.lenDevId]; omega)
      | mismatch =>
        refine ⟨.error .invalidDeviceId,
          [.acquire true] ++ bringUpEvents s.par ++ identityEvents s.par (bad ++ [b]), ?_⟩
        simp only [runOp, hr, hj, loopResult, endInit]
        constructor
        case results => simp [ht.results]
        case trace => simp [ht.trace]
        all_goals simp_all [ht.rx, ht.ctl, ht.par, ht.calls, ht.phase, ht.initAttempt, ht.gpio, transition, ht.op]
        all_goals (simp only [Config.lenDevId]; omega)
  | configure cfg =>
    rcases runConfigure_cases cfg s with ⟨ha, u, hu, ho, hr⟩ | ⟨ha, u, hu, ho, ⟨hb, hr⟩ | ⟨hb, hr⟩⟩
    · refine ⟨.error .transportError, (configureEvents cfg s).take 1, ?_⟩
      simp only [runOp, hr, Run.finish]
      constructor
      case results => simp [hu.results]
      case trace => simp [hu.trace]
      all_goals
        simp_all [hu.rx, hu.ctl, hu.par, hu.calls, hu.phase, hu.initAttempt, hu.clk, hu.gpio, transition, LengthsFit,
          configureEvents]
      try omega
    · refine ⟨.ok .none, configureEvents cfg s, ?_⟩
      simp only [runOp, hr, Run.finish]
      constructor
      case results => simp [hu.results]
      case trace => simp [hu.trace]
      all_goals
        simp_all [hu.rx, hu.ctl, hu.par, hu.calls, hu.phase, hu.initAttempt, hu.clk, hu.gpio, transition, LengthsFit,
          configureEvents]
      try omega
    · refine ⟨.error .transportError, configureEvents cfg s, ?_⟩
      simp only [runOp, hr, Run.finish]
      constructor
      case results => simp [hu.results]
      case trace => simp [hu.trace]
      all_goals
        simp_all [hu.rx, hu.ctl, hu.par, hu.calls, hu.phase, hu.initAttempt, hu.clk, hu.gpio, transition, LengthsFit,
          configureEvents]
      try omega
  | rxEnable hint =>
    obtain ⟨u, hu, ho, ⟨ha, hr⟩ | ⟨ha, hr⟩⟩ := runRxEnable_cases s
    · refine ⟨.ok .none,
        [.busWrite (encodeHeader Config.opWrite s.par.regSysCfg) s.par.rxEnableCmd (s.answered 0)], ?_⟩
      simp only [runOp, hr, Run.finish]
      constructor
      case results => simp [hu.results]
      case trace => simp [hu.trace]
      all_goals
        simp_all [hu.rx, hu.ctl, hu.par, hu.calls, hu.phase, hu.initAttempt, hu.clk, hu.gpio, transition, LengthsFit]
      try omega
    · refine ⟨.error .transportError,
        [.busWrite (encodeHeader Config.opWrite s.par.regSysCfg) s.par.rxEnableCmd (s.answered 0)], ?_⟩
      simp only [runOp, hr, Run.finish]
      constructor
      case results => simp [hu.results]
      case trace => simp [hu.trace]
      all_goals
        simp_all [hu.rx, hu.ctl, hu.par, hu.calls, hu.phase, hu.initAttempt, hu.clk, hu.gpio, transition, LengthsFit]
      try omega
  | isFrameReady =>
    obtain ⟨u, hu, ho, hr⟩ := runIsFrameReady_cases s
    · obtain ⟨bb, hr⟩ : ∃ bb, runIsFrameReady s = .ok bb u := ⟨_, hr⟩
      refine ⟨.ok (.bit bb),
        [.busRead (encodeHeader Config.opRead s.par.regSysStatus) s.par.lenSysStatus (s.received 0 s.par.lenSysStatus)], ?_⟩
      simp only [runOp, hr, Run.finish]
      constructor
      case results => simp [hu.results]
      case trace => simp [hu.trace]
      all_goals
        simp_all [hu.rx, hu.ctl, hu.par, hu.calls, hu.phase, hu.initAttempt, hu.clk, hu.gpio, transition, LengthsFit]
      try omega
  | readFrame =>
    rcases runReadFrame_cases s with ⟨k, u, _, _, _, hu, ho, hr⟩ |
      ⟨fi, d, t, q, qb, u, _, _, _, _, _, _, hu, ho, hr⟩
    · refine ⟨.error .transportError, (readFrameEvents s).take (k+1), ?_⟩
      simp only [runOp, hr, Run.finish, Run.onRaise]
      constructor
      case results => simp [hu.results]
      case trace => simp; exact hu.trace
      case runTime =>
        intro _
        exact ⟨by simp [hu.initAttempt], by simp [hu.clk], by simp [hu.gpio],
          fun e h => readFrameEvents_quiet s e (List.mem_of_mem_take h)⟩
      case opLen => left; have := h3; simp only [LengthsFit] at this; simp; omega
      all_goals simp [hu.ctl, hu.par, hu.calls, hu.phase, hu.initAttempt, hu.clk, hu.gpio, transition]
    · refine ⟨.ok (.frame (frameOf (loadRx s.par d t q qb s.rx))), readFrameEvents s, ?_⟩
      simp only [runOp, hr, Run.finish, Run.onRaise]
      constructor
      case results => simp [hu.results]
      case trace => simp [hu.trace]
      case runTime =>
        intro _
        exact ⟨by simp [hu.initAttempt], by simp [hu.clk], by simp [hu.gpio],
          readFrameEvents_quiet s⟩
      all_goals
        simp_all [hu.ctl, hu.par, hu.calls, hu.phase, hu.initAttempt, hu.clk, hu.gpio, transition, LengthsFit]
  | reset =>
    obtain ⟨u, hu, ho, ⟨ha, hr⟩ | ⟨ha, hr⟩⟩ := runReset_cases s
    · refine ⟨.ok .none,
        [.busWrite (encodeHeader Config.opWrite s.par.regSoftReset) [s.par.softResetCmd] (s.answered 0),
          .delay s.par.tSoftResetSettle], ?_⟩
      simp only [runOp, hr, Run.finish]
      constructor
      case results => simp [hu.results]
      case trace => simp [hu.trace]
      all_goals
        simp_all [hu.rx, hu.ctl, hu.par, hu.calls, hu.phase, hu.initAttempt, hu.clk, hu.gpio, transition, LengthsFit]
      try omega
    · refine ⟨.error .transportError,
        [.busWrite (encodeHeader Config.opWrite s.par.regSoftReset) [s.par.softResetCmd] (s.answered 0)], ?_⟩
      simp only [runOp, hr, Run.finish]
      constructor
      case results => simp [hu.results]
      case trace => simp [hu.trace]
      all_goals
        simp_all [hu.rx, hu.ctl, hu.par, hu.calls, hu.phase, hu.initAttempt, hu.clk, hu.gpio, transition, LengthsFit]
      try omega

end Sys2Proof.Machine
end

