-- ==== Sys2Proof/Laws/PerInstr.lean ====
section
/-! SUPPORT. The bus header of an operation, per operation: the rows of the opcode table (spec/30_encoding.md R80) by length. -/

namespace Sys2Proof.Laws.BusHeader

/-- A short row's header is one byte with bit 6 clear; an X row's, for a well-formed operation, three bytes with bit 6 of
the first set; a controller operation has none. -/
def Statement (i : Instr) : Prop :=
  i.wellFormed = true →
    match i with
    | .rdS _ _ | .wrS _ _ => ∃ h0 : Byte, i.busHeader = some [h0] ∧ h0.getLsbD 6 = false
    | .rdX _ _ | .wrX _ _ => ∃ h0 h1 h2 : Byte, i.busHeader = some [h0, h1, h2] ∧ h0.getLsbD 6 = true
    | .init | .configure _ | .rxEnable _ | .isFrameReady | .readFrame | .reset => i.busHeader = none

/-- The one byte of a short header has bit 6 clear. -/
theorem short_header (op : Byte) (h : op.getLsbD 6 = false) (reg : BitVec 7) :
    ∃ h0 : Byte, encodeHeader op (reg.setWidth 15) = [h0] ∧ h0.getLsbD 6 = false := by
  have hlt : (reg.setWidth 15).toNat < Config.shortLimit := by
    have := reg.isLt
    simp only [BitVec.toNat_setWidth, Config.shortLimit]
    omega
  refine ⟨_, by rw [encodeHeader, if_pos hlt], ?_⟩
  rw [BitVec.getLsbD_or, h, Bool.false_or, BitVec.getLsbD_setWidth, BitVec.getLsbD_and]
  simp

/-- An extended header has three bytes and bit 6 of the first set. -/
theorem long_header (op : Byte) (reg : Addr) (h : 0x80 ≤ reg.toNat) :
    ∃ h0 h1 h2 : Byte, encodeHeader op reg = [h0, h1, h2] ∧ h0.getLsbD 6 = true := by
  have hge : ¬ reg.toNat < Config.shortLimit := by simp only [Config.shortLimit]; omega
  refine ⟨_, _, _, by rw [encodeHeader, if_neg hge], ?_⟩
  simp [Config.extFlag]

theorem rdS (reg : BitVec 7) (len : Nat) : Statement (.rdS reg len) := by
  intro _
  simpa [Instr.busHeader] using short_header Config.opRead (by decide) reg

theorem wrS (reg : BitVec 7) (payload : List Byte) : Statement (.wrS reg payload) := by
  intro _
  simpa [Instr.busHeader] using short_header Config.opWrite (by decide) reg

theorem rdX (reg : Addr) (len : Nat) : Statement (.rdX reg len) := by
  intro h
  simpa [Instr.busHeader] using long_header Config.opRead reg (by simpa [Instr.wellFormed] using h)

theorem wrX (reg : Addr) (payload : List Byte) : Statement (.wrX reg payload) := by
  intro h
  simpa [Instr.busHeader] using long_header Config.opWrite reg (by simpa [Instr.wellFormed] using h)

theorem init : Statement .init := fun _ => rfl

theorem configure (cfg : ChipConfig) : Statement (.configure cfg) := fun _ => rfl

theorem rxEnable (timeoutHint : BitVec 32) : Statement (.rxEnable timeoutHint) := fun _ => rfl

theorem isFrameReady : Statement .isFrameReady := fun _ => rfl

theorem readFrame : Statement .readFrame := fun _ => rfl

theorem reset : Statement .reset := fun _ => rfl

end Sys2Proof.Laws.BusHeader
end

