-- ==== Sys2Proof/Tests/Slice0.lean ====
section
/-! SUPPORT. Tests, their expected results from spec/95_test_vectors.md and spec/30_encoding.md (the row is named at each), and
one witness for the hypotheses of each statement. -/

/- The kernel evaluates most of these tests; one after the other they need no thread each. -/
set_option Elab.async false

namespace Sys2Proof.Tests

open Sys2Proof Sys2Proof.Machine

/-! ## The test configuration TESTCFG (95_test_vectors.md section 2) -/

def testRaw : Config.RawParams where
  regDevId := 0x01
  regSysCfg := 0x02
  regPreambleCfg := 0x03
  regRxFinfo := 0x22
  regRxBuffer := 0x23
  regRxTime := 0x24
  regRxFqual := 0x90
  regRxQbyte := 0x98
  regSysStatus := 0x21
  regDevAddrSet := 0x25
  regSoftReset := 0x1234
  devIdHi24 := 0xABCDEF
  nIdAttempts := 3
  idExhaustErr := .timeout
  tWakePulse := 11
  tWakeLatency := 12
  tResetHold := 13
  tResetSettle := 14
  tIdRetry := 15
  tSoftResetSettle := 16
  clkSlow := 2
  clkFast := 20
  lenSysStatus := 4
  frameReadyBit := 13
  lenRxFinfo := 2
  flenLsb := 0
  lenRxFqual := 6
  cirPwrOff := 0
  fpAmplOff := 2
  fpIndexOff := 4
  encSysCfgTable := [((5, 64), [0x05, 0x40]), ((2, 16), [0x02, 0x10])]
  encSysCfgElse := [0]
  encPreambleTable := [(128, [0x80, 0x00]), (1024, [0x00, 0x04])]
  encPreambleElse := [0]
  rxEnableCmd := [0x01]
  softResetCmd := 0xA5
  maxXferLen := 127
  dB10Steps := [(10, 10), (100, 20), (1000, 30), (10000, 40)]
  dB10Zero := 0

theorem test_testcfg_meets_constraints : testRaw.ok = true := by decide +kernel

/-- Section 7: "With FLEN_LSB = 6, LEN_RX_FINFO = 2: ... the parameter set is refused". -/
theorem test_parameter_set_refused :
    ({ testRaw with flenLsb := 6 } : Config.RawParams).ok = false := by decide +kernel

def testParams : Config.Params := ⟨testRaw, test_testcfg_meets_constraints⟩

/-- A state of the block with TESTCFG: a controller state, the environment's answers, everything else as at power-on but the
lines and the clock, which are as a bring-up leaves them outside `Uninit`. -/
def st (c : CtlState) (script : List Reply) : State :=
  { State.reset with
    ctl := ⟨c, ⟨0, 0, 0, 0, 0⟩, decide (c = .configured ∨ c = .listening)⟩
    clk := if c = .uninit then .slow else .fast
    gpio := if c = .uninit then ⟨false, false⟩ else ⟨true, true⟩
    par := testParams
    script := script }

/-- A part of the state an operation ends in, if it completes. -/
def after {α : Type} (i : Instr) (s : State) (f : State → α) : Option α :=
  match exec i s with
  | .next t => some (f t)
  | .fault _ => none
  | .refused _ => none

/-- An operation accepted completes: the witness of a hypothesis `exec i s = next t`. -/
theorem completes {i : Instr} {s : State} (h1 : s.seq.phase = .idle) (h2 : s.ctl.state ∈ admittedStates i)
    (h3 : LengthsFit s.par i) : exec i s = .next (runOp i s) := exec_of_accepted h1 h2 h3

/-! ## Well-formedness -/

theorem test_rdX_short_address_refused : (Instr.rdX 0x7F 1).wellFormed = false := by decide
theorem test_wrX_short_address_refused : (Instr.wrX 0x00 [1]).wellFormed = false := by decide
theorem test_rdX_long_address_accepted : (Instr.rdX 0x80 1).wellFormed = true := by decide

/-! ## Decoding (30_encoding.md R71 to R85): words written out bit by bit -/

theorem test_decode_rdS : decodeTableWord 8 0b00_111111 = some (.rdS 0b111111 0) := by decide
/-- R80: a word of 8 bits is a header, the 3-bit word of the same value a command code (R82). -/
theorem test_decode_rdS_low :
    decodeTableWord 8 0b00_000011 = some (.rdS 0b000011 0) ∧ decodeTableWord 3 0b011 = some .isFrameReady := by decide
theorem test_decode_wrS : decodeTableWord 8 0b10_100001 = some (.wrS 0x21 []) := by decide
theorem test_decode_rdX :
    decodeTableWord 24 0b01_000000_0_0010000_00000001 = some (.rdX 0b00000001_0010000 0) := by decide
theorem test_decode_wrX :
    decodeTableWord 24 0b11_000000_0_0110100_00100100 = some (.wrX 0b00100100_0110100 []) := by decide
theorem test_decode_init : decode (.command 0b000 0) = .ok .init := by decide
/-- R82: channel, prf, preamble_len, pac_size, preamble_code, here from bit 0 up (log 9): 5, 64, 128, 8, 9. -/
theorem test_decode_configure :
    decode (.command 0b001 0x09_08_0080_40_05#48) = .ok (.configure ⟨5, 64, 128, 8, 9⟩) := by decide
theorem test_decode_rxEnable : decode (.command 0b010 100) = .ok (.rxEnable 100) := by decide
theorem test_decode_isFrameReady : decode (.command 0b011 0) = .ok .isFrameReady := by decide
theorem test_decode_readFrame : decode (.command 0b100 0) = .ok .readFrame := by decide
theorem test_decode_reset : decode (.command 0b101 0) = .ok .reset := by decide

/-- R79: the patterns never produced, and R83: the reserved codes. -/
theorem test_decode_refuses :
    decodeTableWord 8 0x41 = none ∧ decodeTableWord 8 0x40 = none ∧ decodeTableWord 24 0x408001 = none ∧
      decodeTableWord 24 0x400000 = none ∧ decodeTableWord 3 6 = none ∧ decodeTableWord 3 7 = none := by decide

/-- Vector H14 and H8 of section 3. -/
theorem test_encode_header :
    encodeHeader 0x80 0x1234 = [0xC0, 0x34, 0x24] ∧ encodeHeader 0x00 0x007F = [0x3F] := by decide

/-- Vector H19, and E3's read of six bytes at `0x0090`. -/
theorem test_encode_header_long :
    encodeHeader 0x80 0x7FFF = [0xC0, 0x7F, 0xFF] ∧ encodeHeader 0x00 0x0090 = [0x40, 0x10, 0x01] := by decide

/-! ## The transport (section 4) -/

/-- T10: an aliased address. -/
theorem test_rdS :
    after (.rdS 0x42 2) (st .ready [.ok [9, 9]]) (fun t => (t.results, t.trace)) =
      some ([.ok (.bytes [9, 9])], [.busRead [0x02] 2 (some [9, 9])]) := by decide +kernel

/-- T8: a fault after two bytes. -/
theorem test_rdS_fault :
    after (.rdS 0x01 4) (st .ready [.fault 2]) (fun t => (t.results, t.trace, t.seq.phase)) =
      some ([.error .transportError], [.busRead [0x01] 4 none], .idle) := by decide +kernel

/-- T3. -/
theorem test_wrS :
    after (.wrS 0x21 [0xFF, 0xFF, 0xFF, 0xFF]) (st .ready [.ok []]) (fun t => (t.results, t.trace)) =
      some ([.ok .none], [.busWrite [0xA1] [0xFF, 0xFF, 0xFF, 0xFF] true]) := by decide +kernel

/-- T2. -/
theorem test_rdX :
    after (.rdX 0x0090 6) (st .ready [.ok [1, 2, 3, 4, 5, 6]]) (fun t => (t.results, t.trace)) =
      some ([.ok (.bytes [1, 2, 3, 4, 5, 6])], [.busRead [0x40, 0x10, 0x01] 6 (some [1, 2, 3, 4, 5, 6])]) := by
  decide +kernel

/-- T12. -/
theorem test_rdS_too_long : exec (.rdS 0x23 128) (st .ready []) = .refused (.transferTooLong 128) := rfl

/-- T4, and what stands on the wire. -/
theorem test_wrX :
    after (.wrX 0x1234 [0xA5]) (st .ready [.ok []]) (fun t => (t.results, t.trace)) =
        some ([.ok .none], [.busWrite [0xC0, 0x34, 0x24] [0xA5] true]) ∧
      ((st .ready [.ok []]).writeTxn 0x1234 [0xA5]).sent = [0xC0, 0x34, 0x24, 0xA5] := by decide +kernel

/-- T9: a faulted write. -/
theorem test_wrX_fault :
    after (.wrX 0x1234 [0xA5]) (st .ready [.fault 3]) (fun t => (t.results, t.seq.phase, t.seq.idx)) =
      some ([.error .transportError], .idle, 0) := by decide +kernel

/-! ## init (section 5) -/

/-- Program P1: the second identity read verifies. -/
theorem test_init :
    after .init (st .uninit [.ok [], .ok [0, 0, 0, 0], .ok [0x30, 0xEF, 0xCD, 0xAB]])
        (fun t => (t.results, t.ctl.state, t.initAttempt, t.clk, t.trace)) =
      some ([.ok .none], .ready, 2, .fast,
        [.acquire true, .clkSet .slow, .gpioSet .wake false, .delay 11, .gpioSet .wake true, .delay 12,
          .gpioSet .resetN false, .delay 13, .gpioSet .resetN true, .delay 14,
          .busRead [0x01] 4 (some [0, 0, 0, 0]), .delay 15, .busRead [0x01] 4 (some [0x30, 0xEF, 0xCD, 0xAB]),
          .clkSet .fast]) := by decide +kernel

/-- I8: exhaustion, with a transport fault among the attempts. -/
theorem test_init_exhausted :
    after .init (st .uninit [.ok [], .ok [0xFF, 0xFF, 0xFF, 0xFF], .fault 0, .ok [0, 0, 0, 0]])
        (fun t => (t.results, t.ctl.state, t.initAttempt, t.clk)) =
      some ([.error .timeout], .uninit, 3, .slow) := by decide +kernel

/-! ## configure, rxEnable, isFrameReady (section 6) -/

/-- K1. -/
theorem test_configure :
    after (.configure ⟨5, 64, 128, 8, 9⟩) (st .ready [.ok [], .ok []]) (fun t => (t.results, t.ctl, t.trace)) =
      some ([.ok .none], ⟨.configured, ⟨5, 64, 128, 8, 9⟩, true⟩,
        [.busWrite [0x82] [0x05, 0x40] true, .busWrite [0x83] [0x80, 0x00] true]) := by decide +kernel

/-- K4. -/
theorem test_configure_fault :
    after (.configure ⟨5, 64, 128, 8, 9⟩) (st .ready [.ok [], .fault 0]) (fun t => (t.results, t.ctl.state, t.ctl.cfgValid)) =
      some ([.error .transportError], .ready, false) := by decide +kernel

/-- K8. -/
theorem test_rxEnable :
    after (.rxEnable 100) (st .listening [.ok []]) (fun t => (t.results, t.ctl.state, t.trace)) =
      some ([.ok .none], .listening, [.busWrite [0x82] [0x01] true]) := by decide +kernel

/-- K9. -/
theorem test_rxEnable_fault :
    after (.rxEnable 100) (st .configured [.fault 1]) (fun t => (t.results, t.ctl.state)) =
      some ([.error .transportError], .configured) := by decide +kernel

/-- K11 and K12. -/
theorem test_isFrameReady :
    after .isFrameReady (st .listening [.ok [0x00, 0x20, 0x00, 0x00]]) (fun t => (t.results, t.trace)) =
        some ([.ok (.bit true)], [.busRead [0x21] 4 (some [0x00, 0x20, 0x00, 0x00])]) ∧
      after .isFrameReady (st .listening [.ok [0xFF, 0xDF, 0xFF, 0xFF]]) (fun t => t.results) =
        some [.ok (.bit false)] := by decide +kernel

/-- K14. -/
theorem test_isFrameReady_fault :
    after .isFrameReady (st .listening [.fault 0]) (fun t => (t.results, t.ctl.state)) =
      some ([.ok (.bit false)], .listening) := by decide +kernel

/-! ## readFrame and reset (sections 7 and 8) -/

/-- A listening block and a chip that has a frame of two bytes (row F8), with the quality block of row Q1. -/
def frameState : State :=
  st .listening [.ok [0x02, 0x00], .ok [0xAA, 0xBB], .ok [0x11, 0x22, 0x33, 0x44, 0x55],
    .ok [0xE8, 0x03, 0x64, 0x00, 0xEA, 0x02], .ok [0x5A], .ok []]

/-- F8, Q1 and P2's timestamp and quality byte. -/
theorem test_readFrame :
    after .readFrame frameState (fun t => (t.results, t.ctl.state)) =
      some ([.ok (.frame ⟨2, [0xAA, 0xBB], 0x5544332211, ⟨1000, 100, 746, -85, 20, 0x5A⟩⟩)], .configured) := by
  decide +kernel

/-- X3: the third transaction faults, and F5: the clamped length of the second. -/
theorem test_readFrame_fault :
    after .readFrame (st .listening [.ok [0x80, 0xF8], .ok (List.replicate 127 7), .fault 1])
        (fun t => (t.results, t.ctl.state, t.trace.map fun e => match e with | .busRead h n _ => (h, n) | _ => ([], 0))) =
      some ([.error .transportError], .listening, [([0x22], 2), ([0x23], 127), ([0x24], 5)]) := by decide +kernel

/-- S2. -/
theorem test_reset :
    after .reset (st .configured [.ok []]) (fun t => (t.results, t.ctl.state, t.ctl.cfgValid, t.trace)) =
      some ([.ok .none], .ready, true, [.busWrite [0xC0, 0x34, 0x24] [0xA5] true, .delay 16]) := by decide +kernel

/-- S4. -/
theorem test_reset_fault :
    after .reset (st .configured [.fault 0]) (fun t => (t.results, t.ctl.state, t.trace)) =
      some ([.error .transportError], .configured, [.busWrite [0xC0, 0x34, 0x24] [0xA5] false]) := by decide +kernel

/-- Section 9, the refused cells of the row `reset` and of the transport (S5, T13). -/
theorem test_not_admitted :
    exec .reset (st .uninit []) = .refused (.notAdmitted .uninit) ∧
      exec (.rdS 0x01 4) (st .uninit []) = .refused (.notAdmitted .uninit) := ⟨rfl, rfl⟩

/-! ## Witnesses: for each statement with hypotheses, operands and a state that meet them -/

/-- A verified identity, as the chip sends it. -/
def goodId : List Byte := [0x30, 0xEF, 0xCD, 0xAB]

/-- A block before `init` whose first attempts fail (all-zero, then a bus fault) and whose third, the last, verifies. -/
def bringUpState : State := st .uninit [.ok [], .ok [0, 0, 0, 0], .fault 1, .ok goodId]

/-- A block before `init` whose three attempts fail, the last by an all-one word. -/
def exhaustState : State := st .uninit [.ok [], .ok [0, 0, 0, 0], .fault 1, .ok [0xFF, 0xFF, 0xFF, 0xFF]]

/-- A block before `init` whose second attempt reads a foreign identity (row I10). -/
def foreignState : State := st .uninit [.ok [], .ok [0, 0, 0, 0], .ok [0x01, 0x00, 0x00, 0x00]]

theorem witness_HeaderBitsFollowTheAddress : (0x7F#15).toNat < 0x80 ∧ 0x80 ≤ (0x80#15).toNat := by decide

theorem witness_ShortFormAliasesAndNothingElse :
    (0x40 ≤ (0x40#15).toNat ∧ (0x40#15).toNat ≤ 0x7F) ∧ (0x40 ≤ (0x7F#15).toNat ∧ (0x7F#15).toNat ≤ 0x7F) ∧
      (0x3F#15).toNat ≤ 0x3F ∧ 0x80 ≤ (0x80#15).toNat ∧
      encodeHeader Dir.rd.opcode 0x3F = encodeHeader Dir.rd.opcode 0x3F := by decide

theorem witness_HeaderPatternsNeverProduced :
    encodeHeader Dir.rd.opcode 0x3F = [0x3F] ∧ encodeHeader Dir.wr.opcode 0x80 = 0xC0 :: [0x00, 0x01] := by decide

theorem witness_AcceptedHeadersAreEncodings :
    decodeHeader [0x40, 0x10, 0x01, 7] = .ok (.rd, 0x0090, [7]) ∧ decodeHeader [0xBF] = .ok (.wr, 0x3F, []) := ⟨rfl, rfl⟩

theorem witness_DecodeOfEncodeIsTheOperation :
    (Instr.rdX 0x80 1).wellFormed = true ∧ (Instr.wrX 0x7FFF []).wellFormed = true ∧
      (Instr.rdS 0x7F 0).wellFormed = true ∧ (Instr.configure ⟨5, 64, 128, 8, 9⟩).wellFormed = true := by decide

theorem witness_DecodedOperationsAreWellFormed :
    decode (.read 0x80 4) = .ok (.rdX 0x80 4) ∧ (∀ op arg, Request.read 0x80 4 ≠ .command op arg) ∧
      decode (.write 0x7F []) = .ok (.wrS 0x7F []) ∧ decode (.command 2 100) = .ok (.rxEnable 100) :=
  ⟨rfl, by simp, rfl, rfl⟩

theorem witness_ReservedCommandCodesRefused :
    ((st .ready []).present (.command 6 0)).calls = .command 6 0 :: [] ∧ 6 ≤ (6#3).toNat ∧
      ((st .ready []).present (.command 7 9)).calls = .command 7 9 :: [] ∧ 6 ≤ (7#3).toNat := ⟨rfl, by decide, rfl, by decide⟩

theorem witness_StepRunsTheDecodedOperation :
    (((st .ready []).present (.read 1 4)).calls = .read 1 4 :: [] ∧ decode (.read 1 4) = .ok (.rdS 1 4)) ∧
      (((st .ready []).present (.command 7 0)).calls = .command 7 0 :: [] ∧
        decode (.command 7 0) = .error (.reservedCommand 7)) ∧
      (st .ready []).calls = [] := ⟨⟨rfl, rfl⟩, ⟨rfl, rfl⟩, rfl⟩

theorem witness_HeaderFormDependsOnTheAddressAlone : (0x7F#15).toNat < 0x80 ∧ ¬ (0x80#15).toNat < 0x80 := by decide

theorem witness_FetchWordRunsItsOperation : decodeTableWord 24 0x401001 = some (.rdX 0x0090 0) := by decide

/-- A word under each pattern of the four rows, and one under none, at the ends of the address ranges. -/
theorem witness_HeaderRowsByMatchAndMask :
    (0x3F &&& 0xC0 = 0x00 ∧ 0xBF &&& 0xC0 = 0x80 ∧ 0x40 &&& 0xC0 ≠ 0x00 ∧ 0x40 &&& 0xC0 ≠ 0x80 ∧ 0xBF < 2 ^ 8) ∧
      (0x407FFF &&& 0xFF8000 = 0x400000 ∧ 0x407FFF % 256 ≠ 0 ∧ 0xC00001 &&& 0xFF8000 = 0xC00000 ∧ 0xC00001 % 256 ≠ 0) ∧
      (0xC08001 &&& 0xFF8000 ≠ 0x400000 ∧ 0xC08001 &&& 0xFF8000 ≠ 0xC00000 ∧ 0xC08001 < 2 ^ 24 ∧ 0x400000 % 256 = 0) := by
  decide

theorem witness_PowerOnAdmitsOnlyInit : Instr.reset ≠ .init ∧ Instr.rdS 0 0 ≠ .init := by decide

theorem witness_AdmissionDecidesWhatRuns :
    ((st .ready []).seq.phase = .idle ∧ (st .ready []).ctl.state ∉ admittedStates .init) ∧
      ((st .listening []).seq.phase = .idle ∧ (st .listening []).ctl.state ∈ admittedStates .readFrame ∧
        LengthsFit (st .listening []).par .readFrame) := by decide +kernel

/-- A parameter set whose own transfers are longer than `MAX_XFER_LEN`: R6 allows it. -/
def longParams : Config.Params :=
  ⟨{ testRaw with encSysCfgElse := List.replicate 128 0, rxEnableCmd := List.replicate 128 0, lenSysStatus := 128 },
    by decide +kernel⟩

theorem witness_TransfersOutsideTheDomainRefused :
    (((st .ready []).present (.read 0x8000 1)).calls = .read 0x8000 1 :: [] ∧ 0x8000 ≤ 0x8000) ∧
      (((st .ready []).present (.write 0x8000 [1])).calls = .write 0x8000 [1] :: []) ∧
      ((st .ready []).seq.phase = .idle ∧ (st .ready []).ctl.state ≠ .uninit ∧ (st .ready []).par.maxXferLen < 128) ∧
      (st .ready []).par.maxXferLen < (List.replicate 128 (0 : Byte)).length ∧
      (∀ c, ({ st c [] with par := longParams }).seq.phase = .idle) ∧
      (CtlState.ready ∈ admittedStates (.configure ⟨0, 0, 0, 0, 0⟩) ∧ ¬ LengthsFit longParams (.configure ⟨0, 0, 0, 0, 0⟩)) ∧
      (CtlState.configured ∈ admittedStates (.rxEnable 100) ∧ ¬ LengthsFit longParams (.rxEnable 100)) ∧
      (CtlState.listening ∈ admittedStates .isFrameReady ∧ ¬ LengthsFit longParams .isFrameReady) ∧
      (CtlState.listening ∈ admittedStates .readFrame ∧ ¬ LengthsFit longParams .readFrame) :=
  ⟨⟨rfl, by decide⟩, rfl, ⟨rfl, by decide, by decide⟩, by simp [st, testParams, testRaw], fun _ => rfl, by decide +kernel⟩

theorem witness_ReadReturnsTheBytesReceived :
    let s := st .ready [.ok (List.replicate 127 7)]
    s.seq.phase = .idle ∧ s.ctl.state ≠ .uninit ∧ 127 ≤ s.par.maxXferLen ∧
      s.received 0 127 = some (List.replicate 127 7) := by decide +kernel

theorem witness_WriteSendsThePayload :
    let s := st .ready [.ok []]
    s.seq.phase = .idle ∧ s.ctl.state ≠ .uninit ∧ (List.replicate 127 (7 : Byte)).length ≤ s.par.maxXferLen ∧
      s.answered 0 = true := by decide +kernel

theorem witness_TransportFaultIsReturnedAndNotRetried :
    let s := st .ready [.fault 3]
    s.seq.phase = .idle ∧ s.ctl.state ≠ .uninit ∧ 127 ≤ s.par.maxXferLen ∧ ([1, 2] : List Byte).length ≤ s.par.maxXferLen ∧
      s.answered 0 = false ∧ (∃ reg, Instr.rdS 1 127 = .rdS reg 127) ∧ (∃ reg, Instr.rdX 0x80 127 = .rdX reg 127) ∧
      (∃ reg, Instr.wrS 1 [1, 2] = .wrS reg [1, 2]) ∧ (∃ reg, Instr.wrX 0x80 [1, 2] = .wrX reg [1, 2]) :=
  ⟨rfl, by decide, by decide, by decide, rfl, ⟨_, rfl⟩, ⟨_, rfl⟩, ⟨_, rfl⟩, ⟨_, rfl⟩⟩

theorem witness_WriteSequencerSendsBytesInOrder :
    4 ≤ (encodeHeader 0x80 0x1234 ++ [0xA5]).length ∧ 0 ≤ (encodeHeader 0x80 0x1234 ++ [0xA5]).length := by decide

theorem witness_ReadSequencerReceivesBytesInOrder :
    5 ≤ (encodeHeader 0x00 0x0090).length + ([1, 2] : List Byte).length := by decide

theorem witness_InitWithoutResources :
    let s := st .uninit [.fault 0]
    s.seq.phase = .idle ∧ s.ctl.state = .uninit ∧ s.answered 0 = false := by decide +kernel

theorem witness_InitSucceedsOnAVerifiedIdentity :
    let s := bringUpState
    let bad : List (Option (List Byte)) := [some [0, 0, 0, 0], none]
    s.seq.phase = .idle ∧ s.ctl.state = .uninit ∧ s.answered 0 = true ∧ bad.length < s.par.nIdAttempts ∧
      (∀ k b, bad[k]? = some b → s.received (k + 1) 4 = b ∧ judge s.par b = .failed) ∧
      s.received (bad.length + 1) 4 = some goodId ∧ judge s.par (some goodId) = .verified := by
  refine ⟨rfl, rfl, rfl, by decide, ?_, rfl, by decide +kernel⟩
  intro k b h
  match k, h with
  | 0, h => cases h; decide +kernel
  | 1, h => cases h; decide +kernel
  | k + 2, h => cases h

theorem witness_InitGivesUpAfterItsAttempts :
    let s := exhaustState
    let bad : List (Option (List Byte)) := [some [0, 0, 0, 0], none, some [0xFF, 0xFF, 0xFF, 0xFF]]
    s.seq.phase = .idle ∧ s.ctl.state = .uninit ∧ s.answered 0 = true ∧ bad.length = s.par.nIdAttempts ∧
      (∀ k b, bad[k]? = some b → s.received (k + 1) 4 = b ∧ judge s.par b = .failed) := by
  refine ⟨rfl, rfl, rfl, rfl, ?_⟩
  intro k b h
  match k, h with
  | 0, h => cases h; decide +kernel
  | 1, h => cases h; decide +kernel
  | 2, h => cases h; decide +kernel
  | k + 3, h => cases h

/-- The three clauses at the values where they meet: all-zero, all-one, and one bit away from each (rows I7, I10). -/
theorem witness_IdentityIsJudgedInOrder :
    judge testParams (some [0, 0, 0, 0]) = .failed ∧ judge testParams (some [0xFF, 0xFF, 0xFF, 0xFF]) = .failed ∧
      (¬ ((1 : Byte) = 0#8 ∧ (0 : Byte) = 0#8 ∧ (0 : Byte) = 0#8 ∧ (0 : Byte) = 0#8) ∧
        ¬ ((1 : Byte) = 0xFF#8 ∧ (0 : Byte) = 0xFF#8 ∧ (0 : Byte) = 0xFF#8 ∧ (0 : Byte) = 0xFF#8)) ∧
      judge testParams (some [1, 0, 0, 0]) = .mismatch ∧ judge testParams (some [0xFE, 0xFF, 0xFF, 0xFF]) = .mismatch := by
  decide +kernel

theorem witness_InitRejectsAForeignIdentityAtOnce :
    let s := foreignState
    let bad : List (Option (List Byte)) := [some [0, 0, 0, 0]]
    let b : List Byte := [0x01, 0x00, 0x00, 0x00]
    s.seq.phase = .idle ∧ s.ctl.state = .uninit ∧ s.answered 0 = true ∧ bad.length < s.par.nIdAttempts ∧
      (∀ k x, bad[k]? = some x → s.received (k + 1) 4 = x ∧ judge s.par x = .failed) ∧
      s.received (bad.length + 1) 4 = some b ∧ BitVec.ofNat 32 (le b) ≠ 0x00000000#32 ∧
      BitVec.ofNat 32 (le b) ≠ 0xFFFFFFFF#32 ∧ (BitVec.ofNat 32 (le b)).extractLsb' 8 24 ≠ s.par.devIdHi24 ∧
      ∃ t, exec .init s = .next t ∧ t.results = s.results ++ [Response.error .invalidDeviceId] := by
  refine ⟨rfl, rfl, rfl, by decide, ?_, rfl, by decide, by decide, by decide, _, completes rfl (by decide) trivial,
    by decide +kernel⟩
  intro k b h
  match k, h with
  | 0, h => cases h; decide +kernel
  | k + 1, h => cases h

theorem witness_ReadyOnlyAfterAMatchingIdentity :
    (∃ t, exec .init bringUpState = .next t ∧ t.ctl.state = .ready) ∧
      (∃ t, exec .init exhaustState = .next t ∧
        t.trace = exhaustState.trace ++ t.trace.take 14 ++ [identityEvent testParams (some [0xFF, 0xFF, 0xFF, 0xFF])] ∧
        BitVec.ofNat 32 (le [0xFF, 0xFF, 0xFF, 0xFF]) = 0xFFFFFFFF#32) :=
  ⟨⟨_, completes rfl (by decide) trivial, by decide +kernel⟩,
    ⟨_, completes rfl (by decide) trivial, by decide +kernel, by decide⟩⟩

theorem witness_InitMakesOnlyItsOwnEvents :
    ((∃ t, exec .init bringUpState = .next t) ∧ bringUpState.answered 0 = true) ∧
      ((∃ t, exec .init (st .uninit [.fault 0]) = .next t) ∧ (st .uninit [.fault 0]).answered 0 = false) :=
  ⟨⟨⟨_, completes rfl (by decide) trivial⟩, rfl⟩, ⟨⟨_, completes rfl (by decide) trivial⟩, rfl⟩⟩

theorem witness_InitAlwaysReturnsOneOfItsResults :
    (State.reset.seq.phase = .idle ∧ State.reset.ctl.state = .uninit) ∧ bringUpState.answered 0 = true := ⟨⟨rfl, rfl⟩, rfl⟩

theorem witness_ConfigureWritesThenLatches :
    let cfg : ChipConfig := ⟨5, 64, 128, 8, 9⟩
    (∀ script, (st .ready script).seq.phase = .idle ∧ (st .ready script).ctl.state = .ready ∧
      LengthsFit (st .ready script).par (.configure cfg)) ∧
      ((st .ready [.ok [], .ok []]).answered 0 = true ∧ (st .ready [.ok [], .ok []]).answered 1 = true) ∧
      ((st .ready [.ok [], .fault 0]).answered 0 = true ∧ (st .ready [.ok [], .fault 0]).answered 1 = false) ∧
      (st .ready [.fault 0]).answered 0 = false ∧
      ((st .listening []).seq.phase = .idle ∧ (st .listening []).ctl.state ≠ .ready) :=
  ⟨fun _ => ⟨rfl, rfl, (by decide +kernel : LengthsFit testParams (.configure ⟨5, 64, 128, 8, 9⟩))⟩, ⟨rfl, rfl⟩, ⟨rfl, rfl⟩,
    rfl, rfl, by decide⟩

theorem witness_UnsentConfigFieldsReachNoPayload :
    (∃ t, exec (.configure ⟨5, 64, 128, 8, 9⟩) (st .ready [.ok [], .ok []]) = .next t) ∧
      (∃ t, exec (.configure ⟨5, 64, 128, 0, 1⟩) (st .ready [.ok [], .ok []]) = .next t) :=
  ⟨⟨_, completes rfl (by decide) (by decide +kernel)⟩, ⟨_, completes rfl (by decide) (by decide +kernel)⟩⟩

theorem witness_RxEnableWritesAndListens :
    (∀ script, (st .configured script).seq.phase = .idle ∧
      ((st .configured script).ctl.state = .configured ∨ (st .configured script).ctl.state = .listening) ∧
      LengthsFit (st .configured script).par (.rxEnable 100)) ∧
      (st .configured [.ok []]).answered 0 = true ∧ (st .configured [.fault 0]).answered 0 = false ∧
      (st .listening []).ctl.state = .listening :=
  ⟨fun _ => ⟨rfl, .inl rfl, by show 1 ≤ 127; decide⟩, rfl, rfl, rfl⟩

theorem witness_TimeoutHintIsAdvisory : ∃ t, exec (.rxEnable 100) (st .listening [.ok []]) = .next t :=
  ⟨_, completes rfl (by decide) (by decide +kernel)⟩

theorem witness_IsFrameReadyReturnsTheBit :
    (∀ script, (st .listening script).seq.phase = .idle ∧ (st .listening script).ctl.state = .listening ∧
      LengthsFit (st .listening script).par .isFrameReady) ∧
      (st .listening [.ok [0, 0x20, 0, 0]]).received 0 4 = some [0, 0x20, 0, 0] ∧
      (st .listening [.fault 0]).received 0 4 = none :=
  ⟨fun _ => ⟨rfl, rfl, by show 4 ≤ 127; decide⟩, rfl, rfl⟩

theorem witness_OnlyTheFrameReadyBitIsTested :
    let a : List Byte := [0x00, 0x20, 0x00, 0x00]
    let b : List Byte := [0xFF, 0xFF, 0x00, 0x01]
    a.length = testParams.lenSysStatus ∧ b.length = testParams.lenSysStatus ∧
      (le a).testBit testParams.frameReadyBit = (le b).testBit testParams.frameReadyBit ∧
      (∃ t, exec .isFrameReady { st .listening [] with script := .ok a :: [] } = .next t) ∧
      (∃ t, exec .isFrameReady { st .listening [] with script := .ok b :: [] } = .next t) :=
  ⟨rfl, rfl, by decide, ⟨_, completes rfl (by decide) (by decide +kernel)⟩,
    ⟨_, completes rfl (by decide) (by decide +kernel)⟩⟩

theorem witness_ReadFrameDeliversTheFrame :
    frameState.seq.phase = .idle ∧ frameState.ctl.state = .listening ∧ LengthsFit frameState.par .readFrame ∧
      frameState.received 0 frameState.par.lenRxFinfo = some [0x02, 0x00] ∧
      frameState.received 1 (min ((le [0x02, 0x00] >>> frameState.par.flenLsb) % 2048) 127) = some [0xAA, 0xBB] ∧
      frameState.received 2 5 = some [0x11, 0x22, 0x33, 0x44, 0x55] ∧
      frameState.received 3 frameState.par.lenRxFqual = some [0xE8, 0x03, 0x64, 0x00, 0xEA, 0x02] ∧
      frameState.received 4 1 = some [0x5A] ∧ frameState.answered 5 = true := by decide +kernel

theorem witness_ReadFrameStopsAtTheFirstFault :
    let s := st .listening [.ok [], .ok [], .ok [], .ok [], .ok [], .fault 0]
    let s0 := st .listening [.fault 0]
    (s.seq.phase = .idle ∧ s.ctl.state = .listening ∧ LengthsFit s.par .readFrame ∧ 5 < 6 ∧
      (∀ j, j < 5 → s.answered j = true) ∧ s.answered 5 = false) ∧
      (0 < 6 ∧ (∀ j, j < 0 → s0.answered j = true) ∧ s0.answered 0 = false) := by decide +kernel

/-- The answers to the five transactions of `readFrame` after the frame-info read, for a frame of 127 bytes. -/
def fullFrame : List Reply :=
  [.ok (List.replicate 127 7), .ok [0, 0, 0, 0, 0], .ok [1, 0, 1, 0, 0, 0], .ok [0x5A], .ok []]

theorem witness_ClampingIsSilent :
    let a : List Byte := [0x7F, 0x00]
    let b : List Byte := [0xFF, 0xFF]
    a.length = testParams.lenRxFinfo ∧ b.length = testParams.lenRxFinfo ∧
      127 ≤ (le a >>> testParams.flenLsb) % 2048 ∧ 127 ≤ (le b >>> testParams.flenLsb) % 2048 ∧
      (∃ t f, exec .readFrame { st .listening [] with script := .ok a :: fullFrame } = .next t ∧
        t.results = (st .listening []).results ++ [Response.ok (.frame f)]) ∧
      (∃ t, exec .readFrame { st .listening [] with script := .ok b :: fullFrame } = .next t) :=
  ⟨rfl, rfl, by decide, by decide,
    ⟨_, ⟨127, List.replicate 127 7, 0, ⟨1, 1, 0, -115, 0, 0x5A⟩⟩, completes rfl (by decide) (by decide +kernel),
      by decide +kernel⟩,
    ⟨_, completes rfl (by decide) (by decide +kernel)⟩⟩

theorem witness_DecibelsExactAndNonDecreasing : (1 : Nat) ≤ 1 ∧ (1 : Nat) ≤ 65535 := by decide

theorem witness_SoftResetWritesWaitsAndReturnsToReady :
    (∀ script, (st .configured script).seq.phase = .idle ∧ (st .configured script).ctl.state ≠ .uninit) ∧
      (st .configured [.ok []]).answered 0 = true ∧ (st .configured [.fault 0]).answered 0 = false :=
  ⟨fun _ => ⟨rfl, by simp [st]⟩, rfl, rfl⟩

theorem witness_OnlySuccessMovesTheController :
    (∃ t, exec (.rxEnable 100) (st .configured [.ok []]) = .next t ∧ t.results = [.ok .none]) ∧
      (∃ t, exec (.rxEnable 100) (st .configured [.fault 0]) = .next t ∧ t.results = [.error .transportError]) :=
  ⟨⟨_, completes rfl (by decide) (by decide +kernel), by decide +kernel⟩,
    ⟨_, completes rfl (by decide) (by decide +kernel), by decide +kernel⟩⟩

theorem witness_EachRegisterHasItsWriter :
    (∃ t, exec .reset (st .listening [.ok []]) = .next t) ∧ Instr.reset ≠ .readFrame ∧ Instr.reset ≠ .init ∧
      (∀ cfg, Instr.reset ≠ .configure cfg) := ⟨⟨_, completes rfl (by decide) trivial⟩, by decide, by decide, by simp⟩

theorem witness_NoErrorIsSticky :
    (∃ t, exec .reset (st .listening [.fault 0]) = .next t) ∧
      (∃ why, exec .reset (st .uninit []) = .refused why) ∧
      (∃ t, exec .reset (st .listening [.fault 0]) = .next t ∧
        t.results = (st .listening [.fault 0]).results ++ [Response.error .transportError] ∧
        t.ctl.state ∈ admittedStates .isFrameReady ∧ LengthsFit testParams .isFrameReady) :=
  ⟨⟨_, completes rfl (by decide) trivial⟩, ⟨_, rfl⟩, ⟨_, completes rfl (by decide) trivial, by decide +kernel,
    by decide +kernel, by show 4 ≤ 127; decide⟩⟩

theorem witness_EachErrorHasItsOperations :
    (∃ t, exec .init exhaustState = .next t ∧ t.results = exhaustState.results ++ [Response.error .timeout]) ∧
      (∃ t, exec .reset (st .ready [.fault 0]) = .next t ∧
        t.results = (st .ready [.fault 0]).results ++ [Response.error .transportError]) :=
  ⟨⟨_, completes rfl (by decide) trivial, by decide +kernel⟩, ⟨_, completes rfl (by decide) trivial, by decide +kernel⟩⟩

theorem witness_EveryStepKeepsTheBlockInOrder :
    ((st .configured [.ok []]).present (.command 2 100)).Inv ∧
      (∃ t, step ((st .configured [.ok []]).present (.command 2 100)) = .next t) :=
  ⟨by decide +kernel, ⟨_, completes (i := .rxEnable 100) (s := st .configured [.ok []]) rfl (by decide) (by decide +kernel)⟩⟩

theorem witness_NoTransactionDuringAPulse :
    pulseAfter (bringUpState.present (.command 0 0)).par (bringUpState.present (.command 0 0)).trace = .none ∧
      (∃ t, step (bringUpState.present (.command 0 0)) = .next t) :=
  ⟨rfl, ⟨_, completes (i := .init) (s := bringUpState) rfl (by decide) trivial⟩⟩

theorem witness_RunTimeOperationsKeepTheFastClock :
    (st .configured [.ok []]).Inv ∧ Instr.rxEnable 100 ≠ .init ∧
      (∃ t, exec (.rxEnable 100) (st .configured [.ok []]) = .next t) :=
  ⟨by decide +kernel, by decide, ⟨_, completes rfl (by decide) (by decide +kernel)⟩⟩

theorem witness_WakeLineStaysHighAfterInit :
    ((∃ t, exec .init foreignState = .next t) ∧ foreignState.answered 0 = true) ∧
      ((∃ t, exec .init (st .uninit [.fault 0]) = .next t) ∧ (st .uninit [.fault 0]).answered 0 = false) ∧
      (Instr.reset ≠ .init ∧ ∃ t, exec .reset (st .ready [.ok []]) = .next t) :=
  ⟨⟨⟨_, completes rfl (by decide) trivial⟩, rfl⟩, ⟨⟨_, completes rfl (by decide) trivial⟩, rfl⟩, by decide,
    ⟨_, completes rfl (by decide) trivial⟩⟩

theorem witness_WorkerCycleIsAlwaysAdmitted :
    let s := st .configured [.ok [], .ok [0, 0x20, 0, 0]]
    s.seq.phase = .idle ∧ (s.ctl.state = .configured ∨ s.ctl.state = .listening) ∧ LengthsFit s.par (.rxEnable 100) ∧
      LengthsFit s.par .readFrame ∧ (st .listening []).ctl.state = .listening := by decide +kernel

end Sys2Proof.Tests
end

section
/-! SUPPORT. The bits of the header bytes (spec/30_encoding.md R71 to R73), and the statement that they follow the address. -/

namespace Sys2Proof

/-- R73: the opcode is the write bit 7 alone. -/
theorem Dir.opcode_getLsbD (d : Dir) (i : Nat) :
    d.opcode.getLsbD i = (decide (i = 7) && decide (d = .wr)) := by
  cases d with
  | rd => simp [Dir.opcode, Config.opRead]
  | wr =>
    have hpow : Dir.opcode .wr = BitVec.twoPow 8 7 := rfl
    simp [hpow, eq_comm]

/-- A mask of `k` ones keeps the `k` low bits of an address. -/
theorem addr_and_ones_getLsbD (reg : Addr) (k i : Nat) :
    (reg &&& BitVec.ofNat 15 (2 ^ k - 1)).getLsbD i = (decide (i < k) && reg.getLsbD i) := by
  rw [BitVec.getLsbD_and, BitVec.getLsbD_ofNat, Nat.testBit_two_pow_sub_one]
  by_cases hi : i < 15
  · simp [hi, Bool.and_comm]
  · simp [BitVec.getLsbD_of_ge reg i (by omega)]

/-- R71: the one byte of a short header is `reg[5:0]` below bit 6, and the opcode's bits from there on. -/
theorem shortHeaderByte_getLsbD (d : Dir) (reg : Addr) (i : Nat) :
    (d.opcode ||| (reg &&& 0x3F#15).setWidth 8).getLsbD i =
      if i < 6 then reg.getLsbD i else (decide (i = 7) && decide (d = .wr)) := by
  have hmask : (reg &&& 0x3F#15).getLsbD i = (decide (i < 6) && reg.getLsbD i) := addr_and_ones_getLsbD reg 6 i
  rw [BitVec.getLsbD_or, Dir.opcode_getLsbD, BitVec.getLsbD_setWidth, hmask]
  split
  case isTrue hlow =>
    have hin : i < 8 := by omega
    have hne : i ≠ 7 := by omega
    simp [hlow, hin, hne]
  case isFalse hhigh => simp [hhigh]

/-- R72: the first byte of an extended header, by its fields and as one of two constants. -/
theorem longHeaderFirstByte (d : Dir) :
    (d.opcode ||| 0x40#8).getLsbD 7 = decide (d = .wr) ∧ (d.opcode ||| 0x40#8).getLsbD 6 = true ∧
      (d.opcode ||| 0x40#8).extractLsb' 0 6 = 0#6 ∧
      d.opcode ||| 0x40#8 = (match d with | .rd => 0x40#8 | .wr => 0xC0#8) := by
  cases d <;> decide

/-- R72: the second byte of an extended header is `reg[6:0]` below bit 7. -/
theorem longHeaderSecondByte_getLsbD (reg : Addr) (i : Nat) :
    ((reg &&& 0x7F#15).setWidth 8).getLsbD i = (decide (i < 7) && reg.getLsbD i) := by
  have hmask : (reg &&& 0x7F#15).getLsbD i = (decide (i < 7) && reg.getLsbD i) := addr_and_ones_getLsbD reg 7 i
  rw [BitVec.getLsbD_setWidth, hmask]
  by_cases hi : i < 7
  · have hin : i < 8 := by omega
    simp [hi, hin]
  · simp [hi]

/-- R72: the third byte of an extended header is `reg[14:7]`. -/
theorem longHeaderThirdByte (reg : Addr) :
    ((reg >>> 7) &&& 0xFF#15).setWidth 8 = reg.extractLsb' 7 8 := by
  apply BitVec.eq_of_getLsbD_eq
  intro i hi
  have hmask : ((reg >>> 7) &&& 0xFF#15).getLsbD i = (decide (i < 8) && (reg >>> 7).getLsbD i) :=
    addr_and_ones_getLsbD (reg >>> 7) 8 i
  rw [BitVec.getLsbD_setWidth, hmask, BitVec.getLsbD_ushiftRight, BitVec.getLsbD_extractLsb']
  simp [hi]

/-- R71: the low six bits of a short header are `reg[5:0]`. -/
theorem shortHeaderByte_low (d : Dir) (reg : Addr) :
    (d.opcode ||| (reg &&& 0x3F#15).setWidth 8).extractLsb' 0 6 = reg.extractLsb' 0 6 := by
  apply BitVec.eq_of_getLsbD_eq
  intro i hi
  rw [BitVec.getLsbD_extractLsb', BitVec.getLsbD_extractLsb', Nat.zero_add, shortHeaderByte_getLsbD, if_pos hi]

/-- R72: the low seven bits of the second byte are `reg[6:0]`. -/
theorem longHeaderSecondByte_low (reg : Addr) :
    ((reg &&& 0x7F#15).setWidth 8).extractLsb' 0 7 = reg.extractLsb' 0 7 := by
  apply BitVec.eq_of_getLsbD_eq
  intro i hi
  rw [BitVec.getLsbD_extractLsb', BitVec.getLsbD_extractLsb', Nat.zero_add, longHeaderSecondByte_getLsbD]
  simp [hi]

/-- Settles O1: below 0x80 the short form's byte, from there on the extended form's three, each by its own lemma. -/
theorem headerBitsFollowTheAddress : Obligations.HeaderBitsFollowTheAddress := by
  intro d reg
  constructor
  · intro hshort
    have hbit7 := shortHeaderByte_getLsbD d reg 7
    have hbit6 := shortHeaderByte_getLsbD d reg 6
    exact ⟨_, encodeHeader_short hshort, hbit7, hbit6, shortHeaderByte_low d reg⟩
  · intro hlong
    obtain ⟨hbit7, hbit6, hlow, hconst⟩ := longHeaderFirstByte d
    exact ⟨_, _, _, encodeHeader_long hlong, hbit7, hbit6, hlow, hconst, longHeaderSecondByte_getLsbD reg 7,
      longHeaderSecondByte_low reg, longHeaderThirdByte reg⟩

end Sys2Proof
end

section
/-! SUPPORT. The length of a header and the event of one transaction (spec/40_transport.md R109), and the statement that the
header's form depends on the address alone. -/

namespace Sys2Proof

/-- R75: one byte below 0x80 and three from there on, whatever the opcode. -/
theorem encodeHeader_length (op : Byte) (reg : Addr) :
    (encodeHeader op reg).length = if reg.toNat < 0x80 then 1 else 3 := by
  split
  case isTrue hshort => rw [encodeHeader_short hshort]; rfl
  case isFalse hlong => rw [encodeHeader_long (Nat.le_of_not_lt hlong)]; rfl

namespace Machine

/-- A read, answered or faulted, makes one event: the header of its address, and what it returns. -/
theorem busRead_trace (reg : Addr) (n : Nat) (s : State) :
    (busRead reg n s).2.trace =
      s.trace ++ [Event.busRead (encodeHeader Config.opRead reg) n (busRead reg n s).1] := rfl

/-- A write, answered or faulted, makes one event: the header of its address, and whether it was answered. -/
theorem busWrite_trace (reg : Addr) (bytes : List Byte) (s : State) :
    (busWrite reg bytes s).2.trace =
      s.trace ++ [Event.busWrite (encodeHeader Config.opWrite reg) bytes (busWrite reg bytes s).1] := rfl

end Machine

/-- Settles O18: the event of a read or a write carries the encoder's header, whose length `encodeHeader_length` says. -/
theorem headerFormDependsOnTheAddressAlone : Obligations.HeaderFormDependsOnTheAddressAlone :=
  ⟨fun d reg => encodeHeader_length d.opcode reg,
    fun s reg n => ⟨_, _, Machine.busRead_trace reg n s, encodeHeader_length _ reg⟩,
    fun s reg l => ⟨_, _, Machine.busWrite_trace reg l s, encodeHeader_length _ reg⟩⟩

end Sys2Proof
end

section
/-! SUPPORT. The events of `init` (spec/41_controller_bringup.md R123, R125, R136): those of the identity loop, the one its end
may add, and the statement that there are no others. -/

namespace Sys2Proof.Machine

/-- R127, R128: the identity loop makes only identity reads and retry delays. -/
theorem identityEvents_only (p : Config.Params) (bad : List (Option (List Byte))) (b : Option (List Byte)) :
    ∀ e ∈ identityEvents p (bad ++ [b]), e = .delay p.tIdRetry ∨ ∃ b, e = identityEvent p b := by
  obtain ⟨pre, hevents, hpre⟩ := identityEvents_append p bad b
  intro e he
  rw [hevents, List.mem_append, List.mem_singleton] at he
  rcases he with he | rfl
  · exact hpre e he
  · exact .inr ⟨b, rfl⟩

/-- R131, R132: after the identity loop the end of `init` adds at most the fast clock's event. -/
theorem endInit_trace (t : State) (r : Option Error) :
    ∃ last, (endInit t r).trace = t.trace ++ last ∧ (last = [] ∨ last = [.clkSet .fast]) := by
  cases r with
  | none => exact ⟨[.clkSet .fast], by simp [endInit], .inr rfl⟩
  | some e => exact ⟨[], by simp [endInit], .inl rfl⟩

/-- R122: without the resources the query is the only event of `init`. -/
theorem runInit_unavailable_trace {s : State} (h : s.answered 0 = false) :
    (runInit s).trace = s.trace ++ [Event.acquire false] := by
  have havail : s.available = false := h
  rw [runInit_unavailable h, State.takeError_trace, State.acquire_trace, havail]

end Sys2Proof.Machine

namespace Sys2Proof
open Machine

/-- Settles O27: `runInit_cases` splits on the resources and gives the trace up to the end of the identity loop; the loop's
events are `identityEvents_only`, and what follows them `endInit_trace`. -/
theorem initMakesOnlyItsOwnEvents : Obligations.InitMakesOnlyItsOwnEvents := by
  intro s t h
  obtain ⟨-, -, -, rfl⟩ := (exec_next_iff _ _ _).mp h
  show (_ → (runInit s).trace = _) ∧ (_ → ∃ reads last, (runInit s).trace = _ ∧ _)
  rcases runInit_cases s with ⟨hres, -⟩ | ⟨hres, bad, b, u, hup, -, -, -, hrun⟩
  · exact ⟨runInit_unavailable_trace, by simp [hres]⟩
  · refine ⟨by simp [hres], fun _ => ?_⟩
    obtain ⟨last, hend, hlast⟩ := endInit_trace u (loopResult s.par (judge s.par b))
    refine ⟨identityEvents s.par (bad ++ [b]), last, ?_, identityEvents_only s.par bad b, hlast⟩
    rw [hrun, hend, hup.trace]

end Sys2Proof
end

section
/-! SUPPORT. `rxEnable` and its hint (spec/42_controller_runtime.md R145, R146): what admission reads of an operation, the
operation's one event, and the statement that the hint reaches nothing. -/

namespace Sys2Proof.Machine

/-- Admission reads of an operation only its row of the table (R183) and the lengths of its transfers (R57). -/
theorem State.accept_congr {s : State} {i j : Instr} (hrow : admits i s.ctl.state = admits j s.ctl.state)
    (hlens : transferLengths s.par i = transferLengths s.par j) (t : State) : s.accept i t = s.accept j t := by
  simp only [accept, tooLong, hrow, hlens]

/-- The row of `rxEnable` in R183, whatever the hint. -/
theorem admits_rxEnable (hint : BitVec 32) (c : CtlState) :
    admits (.rxEnable hint) c = decide (c = .configured ∨ c = .listening) := by
  cases c <;> rfl

/-- R146: neither the steps of `rxEnable` nor its admission depends on the hint. -/
theorem exec_rxEnable_hint (s : State) (hint hint' : BitVec 32) :
    exec (.rxEnable hint) s = exec (.rxEnable hint') s := by
  have hrow : admits (.rxEnable hint) s.ctl.state = admits (.rxEnable hint') s.ctl.state := by
    rw [admits_rxEnable, admits_rxEnable]
  rw [exec_eq_accept, exec_eq_accept]
  exact State.accept_congr hrow rfl _

/-- R145: `rxEnable`, answered or faulted, makes one event, its write. -/
theorem runOp_rxEnable_trace (hint : BitVec 32) (s : State) :
    (runOp (.rxEnable hint) s).trace = s.trace ++
      [Event.busWrite (encodeHeader Config.opWrite s.par.regSysCfg) s.par.rxEnableCmd (s.answered 0)] := by
  obtain ⟨u, hmoved, -, ⟨-, hrun⟩ | ⟨-, hrun⟩⟩ := runRxEnable_cases s
  · simp [runOp, hrun, Run.finish, hmoved.trace]
  · simp [runOp, hrun, Run.finish, hmoved.trace]

end Sys2Proof.Machine

namespace Sys2Proof
open Machine

/-- Settles O32: no part of `exec` reads the hint, and an accepted `rxEnable` is its own effect, whose event is the write. -/
theorem timeoutHintIsAdvisory : Obligations.TimeoutHintIsAdvisory := by
  refine ⟨exec_rxEnable_hint, fun s t hint hnext => ?_⟩
  obtain ⟨-, -, -, rfl⟩ := (exec_next_iff _ _ _).mp hnext
  exact runOp_rxEnable_trace hint s

end Sys2Proof
end

section
/-! SUPPORT. Earlier results reach nothing (spec/60_exceptions.md R176): every step of every operation commutes with
prepending results to those already returned; and the statement that no error is sticky. -/

namespace Sys2Proof.Machine

/-- The state `s` with the results `past` returned before its own. -/
def State.withPast (past : List Response) (s : State) : State := { s with results := past ++ s.results }

/-- The end of a part of an operation, with the results `past` before those of its state. -/
def Run.withPast {α : Type} (past : List Response) : Run α → Run α
  | .ok a s => .ok a (s.withPast past)
  | .raise e s => .raise e (s.withPast past)

section
variable (past : List Response)

/-! ## The steps operations are made of -/

theorem State.withPast_par (s : State) : (s.withPast past).par = s.par := rfl

/-- Any list of results is that list put before none. -/
theorem State.withPast_of_none (s : State) :
    ({ s with results := [] } : State).withPast past = { s with results := past } := by
  simp [withPast]

theorem State.setClk_withPast (rate : ClkRate) (s : State) :
    (s.withPast past).setClk rate = (s.setClk rate).withPast past := rfl

theorem State.setWake_withPast (level : Bool) (s : State) :
    (s.withPast past).setWake level = (s.setWake level).withPast past := rfl

theorem State.setResetN_withPast (level : Bool) (s : State) :
    (s.withPast past).setResetN level = (s.setResetN level).withPast past := rfl

theorem State.delay_withPast (t : Nat) (s : State) : (s.withPast past).delay t = (s.delay t).withPast past := rfl

theorem State.setAttempt_withPast (n : Nat) (s : State) :
    (s.withPast past).setAttempt n = (s.setAttempt n).withPast past := rfl

theorem State.loseRx_withPast (s : State) : (s.withPast past).loseRx = s.loseRx.withPast past := rfl

theorem State.respond_withPast (r : Response) (s : State) :
    (s.withPast past).respond r = (s.respond r).withPast past := by
  simp [respond, withPast]

theorem read_withPast (reg : Addr) (n : Nat) (s : State) :
    read reg n (s.withPast past) = (read reg n s).withPast past := by
  have hbus : busRead reg n (s.withPast past) = ((busRead reg n s).1, (busRead reg n s).2.withPast past) := rfl
  rw [read, read, hbus]
  rcases busRead reg n s with ⟨_ | b, u⟩ <;> rfl

theorem write_withPast (reg : Addr) (bytes : List Byte) (s : State) :
    write reg bytes (s.withPast past) = (write reg bytes s).withPast past := by
  have hbus : busWrite reg bytes (s.withPast past) =
      ((busWrite reg bytes s).1, (busWrite reg bytes s).2.withPast past) := rfl
  rw [write, write, hbus]
  rcases busWrite reg bytes s with ⟨_ | _, u⟩ <;> rfl

variable {past}

theorem Run.andThen_withPast {α β : Type} {r r' : Run α} {k : α → State → Run β} (hr : r' = r.withPast past)
    (hk : ∀ a s, k a (s.withPast past) = (k a s).withPast past) :
    r'.andThen k = (r.andThen k).withPast past := by
  subst hr
  cases r with
  | ok a s => exact hk a s
  | raise e s => rfl

theorem Run.recover_withPast {α : Type} {r r' : Run α} (hr : r' = r.withPast past) (a : α) :
    r'.recover a = (r.recover a).withPast past := by
  subst hr
  cases r <;> rfl

theorem Run.onRaise_withPast {α : Type} {r r' : Run α} {f : State → State} (hr : r' = r.withPast past)
    (hf : ∀ s, f (s.withPast past) = (f s).withPast past) : r'.onRaise f = (r.onRaise f).withPast past := by
  subst hr
  cases r with
  | ok a s => rfl
  | raise e s => exact congrArg (Run.raise e) (hf s)

theorem Run.finish_withPast {α : Type} {r r' : Run α} (hr : r' = r.withPast past) (value : α → Value) :
    r'.finish value = (r.finish value).withPast past := by
  subst hr
  cases r with
  | ok a s => exact State.respond_withPast past _ s
  | raise e s => exact State.respond_withPast past _ s

variable (past)

/-! ## The run-time operations -/

theorem runConfigure_withPast (cfg : ChipConfig) (s : State) :
    runConfigure cfg (s.withPast past) = (runConfigure cfg s).withPast past :=
  Run.andThen_withPast (write_withPast past _ _ s) fun _ s =>
  Run.andThen_withPast (write_withPast past _ _ s) fun _ _ => rfl

theorem runRxEnable_withPast (s : State) : runRxEnable (s.withPast past) = (runRxEnable s).withPast past :=
  Run.andThen_withPast (write_withPast past _ _ s) fun _ _ => rfl

theorem runIsFrameReady_withPast (s : State) :
    runIsFrameReady (s.withPast past) = (runIsFrameReady s).withPast past :=
  Run.recover_withPast (Run.andThen_withPast (read_withPast past _ _ s) fun _ _ => rfl) false

theorem runReadFrame_withPast (s : State) : runReadFrame (s.withPast past) = (runReadFrame s).withPast past :=
  Run.andThen_withPast (read_withPast past _ _ s) fun _ s =>
  Run.andThen_withPast (read_withPast past _ _ s) fun _ s =>
  Run.andThen_withPast (read_withPast past _ _ s) fun _ s =>
  Run.andThen_withPast (read_withPast past _ _ s) fun _ s =>
  Run.andThen_withPast (read_withPast past _ _ s) fun _ s =>
  Run.andThen_withPast (write_withPast past _ _ s) fun _ _ => rfl

theorem runReset_withPast (s : State) : runReset (s.withPast past) = (runReset s).withPast past :=
  Run.andThen_withPast (write_withPast past _ _ s) fun _ _ => rfl

/-! ## init -/

theorem wakeSequence_withPast (s : State) : wakeSequence (s.withPast past) = (wakeSequence s).withPast past := by
  simp only [wakeSequence, State.setWake_withPast, State.delay_withPast, State.withPast_par]

theorem resetSequence_withPast (s : State) : resetSequence (s.withPast past) = (resetSequence s).withPast past := by
  simp only [resetSequence, State.setResetN_withPast, State.delay_withPast, State.withPast_par]

theorem prepareChip_withPast (s : State) : prepareChip (s.withPast past) = (prepareChip s).withPast past := by
  simp only [prepareChip, State.setClk_withPast, wakeSequence_withPast, resetSequence_withPast,
    State.setAttempt_withPast]

theorem identityLoop_withPast (left : Nat) (s : State) :
    identityLoop left (s.withPast past) = ((identityLoop left s).1, (identityLoop left s).2.withPast past) := by
  induction left generalizing s with
  | zero => rfl
  | succ left ih =>
    have hattempt : identityAttempt (s.withPast past) =
        ((identityAttempt s).1, (identityAttempt s).2.withPast past) := rfl
    simp only [identityLoop, hattempt, State.withPast_par]
    cases judge s.par (identityAttempt s).1 with
    | verified => rfl
    | mismatch => rfl
    | failed =>
      by_cases hlast : left = 0
      · simp only [hlast, if_true]
      · simp only [hlast, if_false, State.delay_withPast, ih]

theorem endInit_withPast (r : Option Error) (t : State) :
    endInit (t.withPast past) r = (endInit t r).withPast past := by
  cases r with
  | none => exact State.respond_withPast past _ ((t.setClk .fast).setCtlState .ready)
  | some e => exact State.respond_withPast past _ t

theorem bringUp_withPast (s : State) : bringUp (s.withPast past) = (bringUp s).withPast past := by
  rw [bringUp_eq, bringUp_eq, State.withPast_par, prepareChip_withPast, identityLoop_withPast, endInit_withPast]

theorem runInit_withPast (s : State) : runInit (s.withPast past) = (runInit s).withPast past := by
  cases hres : s.answered 0 with
  | true =>
    have hres' : (s.withPast past).answered 0 = true := hres
    rw [runInit_available hres, runInit_available hres']
    exact bringUp_withPast past s.acquire
  | false =>
    have hres' : (s.withPast past).answered 0 = false := hres
    rw [runInit_unavailable hres, runInit_unavailable hres']
    exact State.respond_withPast past _ s.acquire

/-! ## Every operation -/

theorem runOp_withPast (i : Instr) (s : State) : runOp i (s.withPast past) = (runOp i s).withPast past := by
  cases i with
  | rdS reg len => exact Run.finish_withPast (read_withPast past _ len s) _
  | wrS reg payload => exact Run.finish_withPast (write_withPast past _ payload s) _
  | rdX reg len => exact Run.finish_withPast (read_withPast past reg len s) _
  | wrX reg payload => exact Run.finish_withPast (write_withPast past reg payload s) _
  | init => exact runInit_withPast past s
  | configure cfg => exact Run.finish_withPast (runConfigure_withPast past cfg s) _
  | rxEnable hint => exact Run.finish_withPast (runRxEnable_withPast past s) _
  | isFrameReady => exact Run.finish_withPast (runIsFrameReady_withPast past s) _
  | readFrame =>
    exact Run.finish_withPast (Run.onRaise_withPast (runReadFrame_withPast past s) (State.loseRx_withPast past)) _
  | reset => exact Run.finish_withPast (runReset_withPast past s) _

end

/-- R176: an operation's effect after other earlier results is its effect, with the same result behind those others: both are
its effect after none, with the earlier results put before. -/
theorem runOp_of_results {i : Instr} {s : State} {r : Response} (hr : (runOp i s).results = s.results ++ [r])
    (earlier : List Response) :
    runOp i { s with results := earlier } = { runOp i s with results := earlier ++ [r] } := by
  have hpast (l : List Response) :
      runOp i { s with results := l } = (runOp i { s with results := [] }).withPast l := by
    rw [← runOp_withPast, State.withPast_of_none]
  have hself : runOp i s = (runOp i { s with results := [] }).withPast s.results := hpast s.results
  have hfresh : (runOp i { s with results := [] }).results = [r] := by
    rw [hself] at hr
    exact List.append_cancel_left hr
  rw [hpast, hself, ← hfresh]
  rfl

/-- R182: whether and why a call is refused is settled without the state in which the operation would end. -/
theorem State.accept_refused {s t : State} {i : Instr} {why : Refusal} (h : s.accept i t = .refused why) (t' : State) :
    s.accept i t' = .refused why := by
  unfold accept at h ⊢
  by_cases hidle : s.seq.phase = .idle
  · by_cases hrow : admits i s.ctl.state = true
    · rw [if_pos hidle, if_pos hrow] at h ⊢
      cases hlen : tooLong s.par i with
      | none => simp [hlen] at h
      | some n => simpa [hlen] using h
    · rwa [if_pos hidle, if_neg hrow] at h ⊢
  · rwa [if_neg hidle] at h ⊢

end Sys2Proof.Machine

namespace Sys2Proof
open Machine

/-- Settles O42: admission reads no result, `runOp_of_results` is the operation's part of that, and every operation that
completes leaves the sequencer idle for the next. -/
theorem noErrorIsSticky : Obligations.NoErrorIsSticky := by
  refine ⟨fun i s earlier => ⟨fun t hnext => ?_, fun why hrefused => ?_⟩, fun i j s t e hnext _ hadmitted hfit => ?_⟩
  · obtain ⟨r, _, hdone⟩ := exec_changes hnext
    obtain ⟨hidle, hadmitted, hfit, rfl⟩ := (exec_next_iff _ _ _).mp hnext
    refine ⟨r, hdone.results, ?_⟩
    rw [← runOp_of_results hdone.results earlier]
    exact exec_of_accepted hidle hadmitted hfit
  · rw [exec_eq_accept] at hrefused ⊢
    exact State.accept_refused hrefused _
  · obtain ⟨_, _, hdone⟩ := exec_changes hnext
    exact ⟨_, exec_of_accepted hdone.phase hadmitted hfit⟩

end Sys2Proof
end

section
/-! SUPPORT. The pulses of the two lines over one step (spec/70_reset_and_hazards.md R212): what a step can do, by the request
it takes, and the statement that every step ends the pulses it begins. -/

namespace Sys2Proof.Machine

/-- Everything a step that answers a state can do: nothing, for want of a request, or the operation that the next request
decodes to, run in the state without that request (R11, R81). -/
theorem step_next_cases {s t : State} (h : step s = .next t) :
    (s.calls = [] ∧ t = s) ∨
    (∃ r rest i, s.calls = r :: rest ∧ decode r = .ok i ∧ exec i { s with calls := rest } = .next t) := by
  unfold step State.fetch at h
  cases hcalls : s.calls with
  | nil =>
    simp only [hcalls, Host.Outcome.next.injEq] at h
    exact .inl ⟨rfl, h.symm⟩
  | cons r rest =>
    cases hdecode : decode r with
    | error e => simp [hcalls, hdecode] at h
    | ok i =>
      simp only [hcalls, hdecode] at h
      exact .inr ⟨r, rest, i, rfl, hdecode, h⟩

/-- R212: an operation that completes ends every pulse it begins: `init` runs its two sequences whole, and no other operation
makes an event on a line. -/
theorem exec_keeps_no_pulse {i : Instr} {s t : State} (h : exec i s = .next t)
    (hnone : pulseAfter s.par s.trace = .none) : pulseAfter t.par t.trace = .none := by
  obtain ⟨r, events, hdone⟩ := exec_changes h
  rw [hdone.par]
  by_cases hinit : i = .init
  · exact hdone.initPulse hinit hnone
  · obtain ⟨-, -, -, hquiet⟩ := hdone.runTime hinit
    rw [hdone.trace]
    exact pulseAfter_quiet hnone hquiet

end Sys2Proof.Machine

namespace Sys2Proof
open Machine

/-- Settles O46: a step without a request adds no event, and one with a request is an operation, which keeps the property by
`exec_keeps_no_pulse`; taking the request changes neither the parameters nor the trace. -/
theorem noTransactionDuringAPulse : Obligations.NoTransactionDuringAPulse := by
  intro s t hnone hstep
  rcases step_next_cases hstep with ⟨-, rfl⟩ | ⟨r, rest, i, -, -, hexec⟩
  · exact hnone
  · exact exec_keeps_no_pulse hexec hnone

end Sys2Proof
end

section
/-! SUPPORT. The wake line (spec/70_reset_and_hazards.md R211): which parts of `init` make an event on it, and the statement
that nothing but the wake sequence does. -/

namespace Sys2Proof.Machine

/-- R211: the events of `init` before the wake sequence, the acquisition and the slow clock, leave the wake line alone. -/
theorem beforeWake_offWakeLine : ∀ e ∈ [Event.acquire true, .clkSet .slow], e.onWakeLine = false := by
  simp [Event.onWakeLine]

/-- The reset sequence drives the reset line alone (R126). -/
theorem resetEvents_offWakeLine (p : Config.Params) :
    ∀ e ∈ [Event.gpioSet .resetN false, .delay p.tResetHold, .gpioSet .resetN true, .delay p.tResetSettle],
      e.onWakeLine = false := by
  simp [Event.onWakeLine]

/-- The identity loop makes only reads and delays (R127, R128). -/
theorem identityPart_offWakeLine {p : Config.Params} {reads : List Event}
    (honly : ∀ e ∈ reads, e = .delay p.tIdRetry ∨ ∃ b, e = identityEvent p b) :
    ∀ e ∈ reads, e.onWakeLine = false := by
  intro e he
  rcases honly e he with rfl | ⟨b, rfl⟩ <;> rfl

/-- What `init` adds after the identity loop is at most the clock's event (R131, R132). -/
theorem initEnd_offWakeLine {last : List Event} (hlast : last = [] ∨ last = [.clkSet .fast]) :
    ∀ e ∈ last, e.onWakeLine = false := by
  rcases hlast with rfl | rfl <;> simp [Event.onWakeLine]

/-- R211: an `init` with its resources makes its wake events in one run of the wake sequence, and none before or after. -/
theorem exec_init_wakes_once {s t : State} (h : exec .init s = .next t) (hres : s.answered 0 = true) :
    ∃ before after, t.trace = s.trace ++ before ++ wakeEvents s.par ++ after ∧
      (∀ e ∈ before, e.onWakeLine = false) ∧ (∀ e ∈ after, e.onWakeLine = false) := by
  obtain ⟨-, hevents⟩ := initMakesOnlyItsOwnEvents s t h
  obtain ⟨reads, last, htrace, honly, hlast⟩ := hevents hres
  refine ⟨[.acquire true, .clkSet .slow],
    [.gpioSet .resetN false, .delay s.par.tResetHold, .gpioSet .resetN true, .delay s.par.tResetSettle] ++ (reads ++ last),
    ?_, beforeWake_offWakeLine, ?_⟩
  · rw [htrace, bringUpEvents_wake]
    simp only [List.append_assoc, List.cons_append, List.nil_append]
  · exact List.forall_mem_append.mpr ⟨resetEvents_offWakeLine s.par,
      List.forall_mem_append.mpr ⟨identityPart_offWakeLine honly, initEnd_offWakeLine hlast⟩⟩

/-- R122: an `init` without its resources leaves both lines as they were. -/
theorem exec_init_unavailable_gpio {s t : State} (h : exec .init s = .next t) (hres : s.answered 0 = false) :
    t.gpio = s.gpio := by
  obtain ⟨-, -, -, rfl⟩ := (exec_next_iff _ _ _).mp h
  show (runInit s).gpio = s.gpio
  rw [runInit_unavailable hres, State.takeError_gpio, State.acquire_gpio]

end Sys2Proof.Machine

namespace Sys2Proof
open Machine

/-- Settles O48: with its resources `init` makes the wake events once and leaves the line high; without them its one event is
the query; and every other operation makes quiet events only (`exec_changes`). -/
theorem wakeLineStaysHighAfterInit : Obligations.WakeLineStaysHighAfterInit := by
  refine ⟨fun s t hnext => ⟨fun hres => ?_, fun hres => ?_⟩, fun i s t hinit hnext => ?_⟩
  · obtain ⟨_, _, hdone⟩ := exec_changes hnext
    exact ⟨hdone.initWake rfl hres, exec_init_wakes_once hnext hres⟩
  · obtain ⟨hquery, -⟩ := initMakesOnlyItsOwnEvents s t hnext
    refine ⟨by rw [exec_init_unavailable_gpio hnext hres], [.acquire false], hquery hres, ?_⟩
    simp [Event.onWakeLine]
  · obtain ⟨_, events, hdone⟩ := exec_changes hnext
    obtain ⟨-, -, hgpio, hquiet⟩ := hdone.runTime hinit
    exact ⟨by rw [hgpio], events, hdone.trace, fun e he => (hquiet e he).onWakeLine⟩

end Sys2Proof
end

section
/-! SUPPORT. The decoder of the two ports, request by request (spec/30_encoding.md R82 to R85, spec/40_transport.md
R101, R102), and the statements that decoding and encoding agree. -/

namespace Sys2Proof

/-! ## The transport port -/

theorem decode_read_short {reg : Nat} (h : reg < 0x80) (len : Nat) :
    decode (.read reg len) = .ok (.rdS (BitVec.ofNat 7 reg) len) := if_pos h

theorem decode_read_long {reg : Nat} (hlow : 0x80 ≤ reg) (hhigh : reg < 0x8000) (len : Nat) :
    decode (.read reg len) = .ok (.rdX (BitVec.ofNat 15 reg) len) :=
  (if_neg (Nat.not_lt.mpr hlow)).trans (if_pos hhigh)

theorem decode_read_outside {reg : Nat} (h : 0x8000 ≤ reg) (len : Nat) :
    decode (.read reg len) = .error (.addressOutOfRange reg) :=
  (if_neg (by simp only [Config.shortLimit]; omega)).trans (if_neg (Nat.not_lt.mpr h))

theorem decode_write_short {reg : Nat} (h : reg < 0x80) (payload : List Byte) :
    decode (.write reg payload) = .ok (.wrS (BitVec.ofNat 7 reg) payload) := if_pos h

theorem decode_write_long {reg : Nat} (hlow : 0x80 ≤ reg) (hhigh : reg < 0x8000) (payload : List Byte) :
    decode (.write reg payload) = .ok (.wrX (BitVec.ofNat 15 reg) payload) :=
  (if_neg (Nat.not_lt.mpr hlow)).trans (if_pos hhigh)

theorem decode_write_outside {reg : Nat} (h : 0x8000 ≤ reg) (payload : List Byte) :
    decode (.write reg payload) = .error (.addressOutOfRange reg) :=
  (if_neg (by simp only [Config.shortLimit]; omega)).trans (if_neg (Nat.not_lt.mpr h))

/-- R101: where an address asked for lies: below 0x80, from there to the end of the 15-bit space, or outside it. -/
theorem address_cases (reg : Nat) : reg < 0x80 ∨ (0x80 ≤ reg ∧ reg < 0x8000) ∨ 0x8000 ≤ reg := by omega

/-! ## The command port -/

/-- R83: the codes 6 and 7 name no operation. -/
theorem decode_reservedCommand {op : BitVec 3} (h : 6 ≤ op.toNat) (arg : BitVec 48) :
    decode (.command op arg) = .error (.reservedCommand op) := by
  have hcode : op.toNat = 6 ∨ op.toNat = 7 := by omega
  rcases hcode with h | h <;> simp [decode, decodeCommand, h]

/-- The hint comes back from the low 32 bits of `cmd.arg`. -/
theorem hint_of_arg (hint : BitVec 32) : (hint.setWidth 48).setWidth 32 = hint := by
  rw [BitVec.setWidth_setWidth_of_le hint (by decide), BitVec.setWidth_eq]

/-- A command names no X row, so it is well-formed whatever it is. -/
theorem decodeCommand_wellFormed {op : BitVec 3} {arg : BitVec 48} {i : Instr} (h : decodeCommand op arg = .ok i) :
    i.wellFormed = true := by
  unfold decodeCommand at h
  split at h <;> cases h <;> rfl

/-! ## Both ports -/

/-- Settles O6: each transport row by the interval its address lies in, each command by its code, the two commands with
an argument by their fields' way through `cmd.arg`. -/
theorem decodeOfEncodeIsTheOperation : Obligations.DecodeOfEncodeIsTheOperation := by
  intro i hwf
  cases i with
  | rdS reg len => simpa [encode] using decode_read_short reg.isLt len
  | wrS reg payload => simpa [encode] using decode_write_short reg.isLt payload
  | rdX reg len =>
    have hlow : 0x80 ≤ reg.toNat := of_decide_eq_true hwf
    simpa [encode] using decode_read_long hlow reg.isLt len
  | wrX reg payload =>
    have hlow : 0x80 ≤ reg.toNat := of_decide_eq_true hwf
    simpa [encode] using decode_write_long hlow reg.isLt payload
  | configure cfg => exact congrArg (fun c => Except.ok (Instr.configure c)) (configOfArg_argOfConfig cfg)
  | rxEnable hint => exact congrArg (fun x => Except.ok (Instr.rxEnable x)) (hint_of_arg hint)
  | init => rfl
  | isFrameReady => rfl
  | readFrame => rfl
  | reset => rfl

/-- R80, R109: the decoder uses an X row only from 0x80 on, and the operation it gives a transport request has that
request for its name. -/
theorem decode_sound {r : Request} {i : Instr} (h : decode r = .ok i) :
    i.wellFormed = true ∧ ((∀ op arg, r ≠ .command op arg) → encode i = r) := by
  cases r with
  | command op arg => exact ⟨decodeCommand_wellFormed h, fun hne => absurd rfl (hne op arg)⟩
  | read reg len =>
    rcases address_cases reg with hreg | ⟨hlow, hhigh⟩ | hreg
    · obtain rfl := Except.ok.inj ((decode_read_short hreg len).symm.trans h)
      exact ⟨rfl, fun _ => by simp [encode]; omega⟩
    · obtain rfl := Except.ok.inj ((decode_read_long hlow hhigh len).symm.trans h)
      have hreg : (BitVec.ofNat 15 reg).toNat = reg := by simp; omega
      simp [Instr.wellFormed, encode, hreg, hlow]
    · simp [decode_read_outside hreg] at h
  | write reg payload =>
    rcases address_cases reg with hreg | ⟨hlow, hhigh⟩ | hreg
    · obtain rfl := Except.ok.inj ((decode_write_short hreg payload).symm.trans h)
      exact ⟨rfl, fun _ => by simp [encode]; omega⟩
    · obtain rfl := Except.ok.inj ((decode_write_long hlow hhigh payload).symm.trans h)
      have hreg : (BitVec.ofNat 15 reg).toNat = reg := by simp; omega
      simp [Instr.wellFormed, encode, hreg, hlow]
    · simp [decode_write_outside hreg] at h

/-- Settles O7: `decode_sound`, and the second round by `decodeOfEncodeIsTheOperation`. -/
theorem decodedOperationsAreWellFormed : Obligations.DecodedOperationsAreWellFormed := by
  intro r i h
  obtain ⟨hwf, hname⟩ := decode_sound h
  exact ⟨hwf, decodeOfEncodeIsTheOperation i hwf, hname⟩

end Sys2Proof
end

section
/-! SUPPORT. The bytes of a header and their decoder (spec/30_encoding.md R74 to R79), and the statements about header
bytes and about the header words of the opcode table (R80). -/

namespace Sys2Proof

/-! ## Bits that two headers share -/

/-- The short form looks at `reg[5:0]` alone. -/
theorem encodeHeader_short_congr {op : Byte} {reg reg' : Addr} (h : reg.toNat < 0x80) (h' : reg'.toNat < 0x80)
    (hlow : reg &&& 0x3F#15 = reg' &&& 0x3F#15) : encodeHeader op reg = encodeHeader op reg' := by
  rw [encodeHeader_short h, encodeHeader_short h', hlow]

/-- `reg[5:0]` as a number. -/
theorem toNat_and_low6 (reg : Addr) : (reg &&& 0x3F#15).toNat = reg.toNat % 64 :=
  Nat.and_two_pow_sub_one_eq_mod reg.toNat 6

/-- An address is put together from the fields of the second and third byte of its extended header. -/
theorem address_of_fields {reg reg' : Addr} (hlow : reg.extractLsb' 0 7 = reg'.extractLsb' 0 7)
    (hhigh : reg.extractLsb' 7 8 = reg'.extractLsb' 7 8) : reg = reg' := by
  apply BitVec.eq_of_toNat_eq
  have h1 := congrArg BitVec.toNat hlow
  have h2 := congrArg BitVec.toNat hhigh
  simp only [BitVec.extractLsb'_toNat, Nat.shiftRight_eq_div_pow] at h1 h2
  have := reg.isLt
  have := reg'.isLt
  omega

theorem encodeHeader_short_inj {d : Dir} {reg reg' : Addr} (h : reg.toNat < 0x40) (h' : reg'.toNat < 0x40)
    (heq : encodeHeader d.opcode reg = encodeHeader d.opcode reg') : reg = reg' := by
  rw [encodeHeader_short (by omega), encodeHeader_short (by omega), List.singleton_inj] at heq
  have hlow : reg.extractLsb' 0 6 = reg'.extractLsb' 0 6 := by
    rw [← shortHeaderByte_low d, ← shortHeaderByte_low d, heq]
  have := congrArg BitVec.toNat hlow
  simp only [BitVec.extractLsb'_toNat, Nat.shiftRight_eq_div_pow] at this
  exact BitVec.eq_of_toNat_eq (by omega)

theorem encodeHeader_long_inj {d : Dir} {reg reg' : Addr} (h : 0x80 ≤ reg.toNat) (h' : 0x80 ≤ reg'.toNat)
    (heq : encodeHeader d.opcode reg = encodeHeader d.opcode reg') : reg = reg' := by
  rw [encodeHeader_long h, encodeHeader_long h'] at heq
  obtain ⟨-, hsecond, hthird, -⟩ : _ ∧ _ ∧ _ ∧ True := by simpa only [List.cons.injEq] using heq
  apply address_of_fields
  · rw [← longHeaderSecondByte_low, ← longHeaderSecondByte_low, hsecond]
  · rw [← longHeaderThirdByte, ← longHeaderThirdByte, hthird]

/-- Settles O2: the short form drops bit 6 of the address, which is the sharing; apart from it each form keeps the whole
address, and the two forms differ in length. -/
theorem shortFormAliasesAndNothingElse : Obligations.ShortFormAliasesAndNothingElse := by
  intro d
  constructor
  · intro reg hlow hhigh
    have hsub : (reg - 0x40#15).toNat = reg.toNat - 0x40 := by
      rw [BitVec.toNat_sub_of_le (by rw [BitVec.le_def]; exact hlow)]; rfl
    refine encodeHeader_short_congr (by omega) (by omega) (BitVec.eq_of_toNat_eq ?_)
    rw [toNat_and_low6, toNat_and_low6, hsub]
    omega
  · intro reg reg' hreg hreg' heq
    have hlen := congrArg List.length heq
    rw [encodeHeader_length, encodeHeader_length] at hlen
    rcases hreg with h | h <;> rcases hreg' with h' | h'
    · exact encodeHeader_short_inj (by omega) (by omega) heq
    · rw [if_pos (by omega), if_neg (by omega)] at hlen; omega
    · rw [if_neg (by omega), if_pos (by omega)] at hlen; omega
    · exact encodeHeader_long_inj h h' heq

/-! ## The patterns never produced (R79) -/

/-- A short header's byte is below 0x40, or from 0x80 on and below 0xC0: its bit 6 is clear. -/
theorem byte_range_of_bit6_clear {h0 : Byte} (h : h0.getLsbD 6 = false) : h0.toNat / 64 % 2 = 0 := by
  rw [BitVec.getLsbD, Nat.testBit_eq_decide_div_mod_eq] at h
  have := of_decide_eq_false h
  omega

/-- The third byte of an extended header holds the high bits of an address that is not short. -/
theorem thirdByte_ne_zero_iff (reg : Addr) : reg.extractLsb' 7 8 ≠ 0#8 ↔ 0x80 ≤ reg.toNat := by
  rw [Ne, ← BitVec.toNat_inj]
  simp only [BitVec.extractLsb'_toNat, Nat.shiftRight_eq_div_pow, BitVec.toNat_ofNat]
  have := reg.isLt
  omega

/-- Settles O3: bit 6 clear keeps a short header's byte out of both ranges, an extended one starts with 0x40 or 0xC0. -/
theorem headerPatternsNeverProduced : Obligations.HeaderPatternsNeverProduced := by
  intro d reg h0 rest heq
  rcases Nat.lt_or_ge reg.toNat 0x80 with hshort | hlong
  · rw [encodeHeader_short hshort, List.cons.injEq] at heq
    obtain ⟨rfl, rfl⟩ := heq
    have hrange := byte_range_of_bit6_clear (shortHeaderByte_getLsbD d reg 6)
    exact ⟨by omega, by omega, .inl rfl⟩
  · rw [encodeHeader_long hlong, List.cons.injEq] at heq
    obtain ⟨rfl, rfl⟩ := heq
    obtain ⟨-, -, -, hconst⟩ := longHeaderFirstByte d
    refine ⟨?_, ?_, .inr ⟨_, _, rfl, longHeaderSecondByte_getLsbD reg 7, ?_⟩⟩
    · rw [hconst]; cases d <;> decide
    · rw [hconst]; cases d <;> decide
    · rw [longHeaderThirdByte]
      exact (thirdByte_ne_zero_iff reg).mpr hlong

/-! ## The header decoder -/

/-- R73, R74: the direction that bit 7 of a first byte tells. -/
def headerDir (h0 : Byte) : Dir := if h0.getLsbD 7 then .wr else .rd

theorem headerDir_of_bit7 {h0 : Byte} {d : Dir} (h : h0.getLsbD 7 = decide (d = .wr)) : headerDir h0 = d := by
  rw [headerDir, h]
  cases d <;> rfl

theorem bit7_eq_headerDir (h0 : Byte) : h0.getLsbD 7 = decide (headerDir h0 = .wr) := by
  unfold headerDir
  cases h0.getLsbD 7 <;> rfl

theorem decodeHeader_short {h0 : Byte} (h6 : h0.getLsbD 6 = false) (rest : List Byte) :
    decodeHeader (h0 :: rest) = .ok (headerDir h0, (h0 &&& 0x3F#8).setWidth 15, rest) := by
  simp only [decodeHeader, headerDir, h6, Bool.false_eq_true, if_false]

theorem decodeHeader_long {h0 h1 h2 : Byte} (h6 : h0.getLsbD 6 = true) (hlow : h0 &&& 0x3F#8 = 0#8)
    (h17 : h1.getLsbD 7 = false) (hnz : h2 ≠ 0#8) (rest : List Byte) :
    decodeHeader (h0 :: h1 :: h2 :: rest) =
      .ok (headerDir h0, h1.setWidth 15 ||| (h2.setWidth 15 <<< 7), rest) := by
  simp only [decodeHeader, headerDir, h6, hlow, h17, hnz, Bool.false_eq_true, if_true, if_false]

/-- Everything the header decoder accepts: a short header, or an extended one with none of the patterns never produced.
-/
theorem decodeHeader_ok_cases {bytes payload : List Byte} {d : Dir} {reg : Addr}
    (h : decodeHeader bytes = .ok (d, reg, payload)) :
    (∃ h0, bytes = h0 :: payload ∧ h0.getLsbD 6 = false ∧ d = headerDir h0 ∧ reg = (h0 &&& 0x3F#8).setWidth 15) ∨
    (∃ h0 h1 h2, bytes = h0 :: h1 :: h2 :: payload ∧ h0.getLsbD 6 = true ∧ h0 &&& 0x3F#8 = 0#8 ∧
      h1.getLsbD 7 = false ∧ h2 ≠ 0#8 ∧ d = headerDir h0 ∧ reg = h1.setWidth 15 ||| (h2.setWidth 15 <<< 7)) := by
  unfold decodeHeader at h
  split at h
  next => cases h
  next h0 rest =>
    cases h6 : h0.getLsbD 6 with
    | false =>
      simp only [h6, Bool.false_eq_true, if_false] at h
      cases h
      exact .inl ⟨h0, rfl, h6, rfl, rfl⟩
    | true =>
      simp only [h6, if_true] at h
      split at h
      next hlow =>
        split at h
        next h1 h2 rest' =>
          split at h
          next => cases h
          next h17 =>
            split at h
            next => cases h
            next hnz =>
              cases h
              exact .inr ⟨h0, h1, h2, rfl, h6, hlow, by simpa using h17, hnz, rfl, rfl⟩
        next => cases h
      next => cases h

/-- The address in the fields of an extended header is put together from them (R76). -/
theorem address_of_bytes_fields (h1 h2 : Byte) (h17 : h1.getLsbD 7 = false) :
    (h1.setWidth 15 ||| (h2.setWidth 15 <<< 7)).extractLsb' 0 7 = h1.extractLsb' 0 7 ∧
      (h1.setWidth 15 ||| (h2.setWidth 15 <<< 7)).extractLsb' 7 8 = h2 := by
  constructor
  · apply BitVec.eq_of_getLsbD_eq
    intro i hi
    simp only [BitVec.getLsbD_extractLsb', BitVec.getLsbD_or, BitVec.getLsbD_shiftLeft, BitVec.getLsbD_setWidth]
    simp [hi]
    omega
  · apply BitVec.eq_of_getLsbD_eq
    intro i hi
    have hbit : h1.getLsbD (7 + i) = false := by
      rcases Nat.eq_zero_or_pos i with rfl | hpos
      · exact h17
      · exact BitVec.getLsbD_of_ge h1 _ (by omega)
    simp only [BitVec.getLsbD_extractLsb', BitVec.getLsbD_or, BitVec.getLsbD_shiftLeft, BitVec.getLsbD_setWidth, hbit]
    have hin : i < 15 := by omega
    have hin' : 7 + i < 15 := by omega
    simp [hi, hin, hin']

/-- The address field of a short header is its low six bits. -/
theorem shortAddress_getLsbD (h0 : Byte) (i : Nat) :
    ((h0 &&& 0x3F#8).setWidth 15).getLsbD i = (decide (i < 6) && h0.getLsbD i) := by
  rw [BitVec.getLsbD_setWidth, BitVec.getLsbD_and, BitVec.getLsbD_ofNat, show 0x3F = 2 ^ 6 - 1 from rfl,
    Nat.testBit_two_pow_sub_one]
  by_cases hi : i < 6
  · have hin : i < 15 := by omega
    have hin' : i < 8 := by omega
    simp [hi, hin, hin']
  · simp [hi]

/-- The address field of a short header, as a number. -/
theorem shortAddress_toNat (h0 : Byte) : ((h0 &&& 0x3F#8).setWidth 15).toNat = h0.toNat % 64 := by
  have hmask : (h0 &&& 0x3F#8).toNat = h0.toNat % 64 := Nat.and_two_pow_sub_one_eq_mod h0.toNat 6
  rw [BitVec.toNat_setWidth, hmask]
  omega

/-- A byte with bit 7 clear is the encoder's second byte for the address whose low seven bits it has. -/
theorem secondByte_of_fields {reg : Addr} {h1 : Byte} (h17 : h1.getLsbD 7 = false)
    (hfield : reg.extractLsb' 0 7 = h1.extractLsb' 0 7) : (reg &&& 0x7F#15).setWidth 8 = h1 := by
  apply BitVec.eq_of_getLsbD_eq
  intro i hi
  rw [longHeaderSecondByte_getLsbD]
  rcases (by omega : i < 7 ∨ i = 7) with hlow | rfl
  · have := congrArg (fun x => x.getLsbD i) hfield
    simpa [hlow] using this
  · exact h17.symm

/-- The encoder's short byte carries the low six bits of the address there and back. -/
theorem shortAddress_of_encoded (d : Dir) (reg : Addr) :
    ((d.opcode ||| (reg &&& 0x3F#15).setWidth 8) &&& 0x3F#8).setWidth 15 = reg &&& 0x3F#15 := by
  apply BitVec.eq_of_getLsbD_eq
  intro i hi
  have hmask : (reg &&& 0x3F#15).getLsbD i = (decide (i < 6) && reg.getLsbD i) := addr_and_ones_getLsbD reg 6 i
  rw [shortAddress_getLsbD, shortHeaderByte_getLsbD, hmask]
  by_cases hi : i < 6 <;> simp [hi]

/-- A byte with bit 6 clear is the encoder's for its direction and its low six bits. -/
theorem shortByte_of_fields {h0 : Byte} (h6 : h0.getLsbD 6 = false) :
    h0 = (headerDir h0).opcode ||| ((h0 &&& 0x3F#8).setWidth 15 &&& 0x3F#15).setWidth 8 := by
  apply BitVec.eq_of_getLsbD_eq
  intro i hi
  rw [shortHeaderByte_getLsbD, shortAddress_getLsbD, ← bit7_eq_headerDir]
  rcases (by omega : i < 6 ∨ i = 6 ∨ i = 7) with hlow | rfl | rfl
  · simp [hlow]
  · exact h6
  · rfl

/-- A byte with bit 6 set and the low six bits clear is the encoder's first byte of an extended header. -/
theorem longByte_of_fields {h0 : Byte} (h6 : h0.getLsbD 6 = true) (hlow : h0 &&& 0x3F#8 = 0#8) :
    h0 = (headerDir h0).opcode ||| 0x40#8 := by
  apply BitVec.eq_of_getLsbD_eq
  intro i hi
  have hbit := shortAddress_getLsbD h0 i
  rw [hlow] at hbit
  rw [BitVec.getLsbD_or, Dir.opcode_getLsbD, ← bit7_eq_headerDir]
  rcases (by omega : i < 6 ∨ i = 6 ∨ i = 7) with hi6 | rfl | rfl
  · have hzero : h0.getLsbD i = false := by simpa [hi6] using hbit.symm
    rw [hzero]
    interval_cases i <;> rfl
  · exact h6
  · simp

/-- Settles O4: each form is told by bit 6 of its first byte, and its fields are the address's. -/
theorem headerDecodesToDirectionAndAddress : Obligations.HeaderDecodesToDirectionAndAddress := by
  intro d reg payload
  rcases Nat.lt_or_ge reg.toNat 0x80 with hshort | hlong
  · have hbyte := shortHeaderByte_getLsbD d reg
    rw [encodeHeader_short hshort, if_pos hshort, List.singleton_append, decodeHeader_short (hbyte 6),
      shortAddress_of_encoded, headerDir_of_bit7 (hbyte 7)]
  · obtain ⟨hbit7, hbit6, -, -⟩ := longHeaderFirstByte d
    have hlow : (d.opcode ||| 0x40#8) &&& 0x3F#8 = 0#8 := by cases d <;> rfl
    have hsecond := longHeaderSecondByte_getLsbD reg 7
    obtain ⟨hfield1, hfield2⟩ := address_of_bytes_fields _ (reg.extractLsb' 7 8) hsecond
    rw [longHeaderSecondByte_low] at hfield1
    have hnz := (thirdByte_ne_zero_iff reg).mpr hlong
    rw [encodeHeader_long hlong, if_neg (Nat.not_lt.mpr hlong), longHeaderThirdByte]
    simp only [List.cons_append, List.nil_append]
    rw [decodeHeader_long hbit6 hlow hsecond hnz, address_of_fields hfield1 hfield2, headerDir_of_bit7 hbit7]

/-- Settles O5: by the two accepted forms, byte by byte. -/
theorem acceptedHeadersAreEncodings : Obligations.AcceptedHeadersAreEncodings := by
  intro bytes d reg payload h
  rcases decodeHeader_ok_cases h with ⟨h0, rfl, h6, rfl, rfl⟩ | ⟨h0, h1, h2, rfl, h6, hlow, h17, hnz, rfl, rfl⟩
  · have hshort : ((h0 &&& 0x3F#8).setWidth 15).toNat < 0x80 := by rw [shortAddress_toNat]; omega
    rw [encodeHeader_short hshort, ← shortByte_of_fields h6, List.singleton_append]
  · obtain ⟨hfield1, hfield2⟩ := address_of_bytes_fields h1 h2 h17
    have hlong : 0x80 ≤ (h1.setWidth 15 ||| (h2.setWidth 15 <<< 7)).toNat := by
      rw [← thirdByte_ne_zero_iff, hfield2]; exact hnz
    rw [encodeHeader_long hlong, longHeaderThirdByte, hfield2, secondByte_of_fields h17 hfield1,
      ← longByte_of_fields h6 hlow]
    rfl

end Sys2Proof
end

section
/-! SUPPORT. The words of the opcode table (spec/30_encoding.md R80, R82) by the header they are, and the statements
about them. -/

namespace Sys2Proof

/-! ## A word and the request it is -/

/-- R80: the header of a word of 24 bits, its first byte in bits 23:16. -/
def headerOfWord24 (w : Nat) : List Byte := [BitVec.ofNat 8 (w >>> 16), BitVec.ofNat 8 (w >>> 8), BitVec.ofNat 8 w]

theorem requestOfTableWord_8 {w : Nat} (h : w < 2 ^ 8) :
    requestOfTableWord 8 w = requestOfHeader [BitVec.ofNat 8 w] := by
  rw [requestOfTableWord, if_neg (Nat.not_le.mpr h)]
  rfl

theorem requestOfTableWord_24 {w : Nat} (h : w < 2 ^ 24) :
    requestOfTableWord 24 w = requestOfHeader (headerOfWord24 w) := by
  rw [requestOfTableWord, if_neg (Nat.not_le.mpr h)]
  rfl

theorem decodeTableWord_of_request {nbits w : Nat} {r : Request} {i : Instr} (hr : requestOfTableWord nbits w = .ok r)
    (hi : decode r = .ok i) : decodeTableWord nbits w = some i := by
  simp only [decodeTableWord, hr, hi]

theorem decodeTableWord_of_error {nbits w : Nat} (h : ∃ e, requestOfTableWord nbits w = .error e) :
    decodeTableWord nbits w = none := by
  obtain ⟨e, he⟩ := h
  simp only [decodeTableWord, he]

/-- A header of a read with no bytes after it is a read of no bytes at the header's address (log 10). -/
theorem requestOfHeader_rd {hdr : List Byte} {reg : Addr} (h : decodeHeader hdr = .ok (.rd, reg, [])) :
    requestOfHeader hdr = .ok (.read reg.toNat 0) := by
  simp only [requestOfHeader, h]

theorem requestOfHeader_wr {hdr : List Byte} {reg : Addr} (h : decodeHeader hdr = .ok (.wr, reg, [])) :
    requestOfHeader hdr = .ok (.write reg.toNat []) := by
  simp only [requestOfHeader, h]

/-- Bytes that are no header, or a header with bytes after it, name no request. -/
theorem requestOfHeader_error {hdr : List Byte} (h : ∀ d reg, decodeHeader hdr ≠ .ok (d, reg, [])) :
    ∃ e, requestOfHeader hdr = .error e := by
  unfold requestOfHeader
  split
  next e _ => exact ⟨e, rfl⟩
  next reg hok => exact absurd hok (h .rd reg)
  next reg hok => exact absurd hok (h .wr reg)
  next => exact ⟨_, rfl⟩

/-! ## Masks on a word -/

/-- A mask of all bits from `n` on clears the lower ones. -/
theorem and_highOnes {w n k : Nat} (h : w < 2 ^ (n + k)) : w &&& ((2 ^ k - 1) <<< n) = w / 2 ^ n * 2 ^ n := by
  rw [← Nat.shiftRight_eq_div_pow, ← Nat.shiftLeft_eq]
  apply Nat.eq_of_testBit_eq
  intro i
  rw [Nat.testBit_and, Nat.testBit_shiftLeft, Nat.testBit_shiftLeft, Nat.testBit_two_pow_sub_one,
    Nat.testBit_shiftRight]
  by_cases hlow : i < n
  · simp [Nat.not_le.mpr hlow]
  · have hi : n + (i - n) = i := by omega
    by_cases hmid : i - n < k
    · simp [hmid, hi, Bool.and_comm]
    · have hbit : w.testBit i = false :=
        Nat.testBit_lt_two_pow (Nat.lt_of_lt_of_le h (Nat.pow_le_pow_right (by decide) (by omega)))
      simp [hmid, hi, hbit]

theorem and_0xC0 {w : Nat} (h : w < 2 ^ 8) : w &&& 0xC0 = w / 64 * 64 := and_highOnes (n := 6) (k := 2) h

theorem and_0xFF8000 {w : Nat} (h : w < 2 ^ 24) : w &&& 0xFF8000 = w / 32768 * 32768 :=
  and_highOnes (n := 15) (k := 9) h

/-- Bit `i` of the low byte of a word. -/
theorem ofNat8_getLsbD (w i : Nat) (hi : i < 8) : (BitVec.ofNat 8 w).getLsbD i = decide (w / 2 ^ i % 2 = 1) := by
  rw [BitVec.getLsbD_ofNat, Nat.testBit_eq_decide_div_mod_eq]
  simp [hi]

/-! ## Words of 8 bits -/

/-- R80: a word of 8 bits with bit 6 clear is the short header of the address in its low six bits. -/
theorem decodeHeader_word8 {w : Nat} (h6 : w / 64 % 2 = 0) :
    ∃ reg : Addr, reg.toNat = w % 64 ∧
      decodeHeader [BitVec.ofNat 8 w] = .ok (headerDir (BitVec.ofNat 8 w), reg, []) := by
  refine ⟨_, ?_, decodeHeader_short (h0 := BitVec.ofNat 8 w) ?_ []⟩
  · rw [shortAddress_toNat, BitVec.toNat_ofNat]
    omega
  · rw [ofNat8_getLsbD w 6 (by decide)]
    exact decide_eq_false (by omega)

/-- A header of one byte has bit 6 clear: with bit 6 set two more would have to follow (R74). -/
theorem decodeHeader_word8_ne {w : Nat} (h6 : w / 64 % 2 = 1) (d : Dir) (reg : Addr) :
    decodeHeader [BitVec.ofNat 8 w] ≠ .ok (d, reg, []) := by
  intro hok
  rcases decodeHeader_ok_cases hok with ⟨h0, hbytes, hbit, -, -⟩ | ⟨h0, h1, h2, hbytes, -⟩
  · obtain rfl := List.singleton_inj.mp hbytes
    rw [ofNat8_getLsbD w 6 (by decide)] at hbit
    exact of_decide_eq_false hbit h6
  · exact absurd (congrArg List.length hbytes) (by simp)

/-- The direction in bit 7 of a word of 8 bits. -/
theorem headerDir_ofNat8 (w : Nat) : headerDir (BitVec.ofNat 8 w) = if w / 128 % 2 = 1 then .wr else .rd := by
  rw [headerDir, ofNat8_getLsbD w 7 (by decide)]
  simp

/-- R80: the rows RD.S and WR.S over every word of 8 bits. -/
theorem decodeTableWord_8 {w : Nat} (hw : w < 2 ^ 8) :
    (w / 64 = 0 → decodeTableWord 8 w = some (.rdS (BitVec.ofNat 7 (w % 64)) 0)) ∧
    (w / 64 = 2 → decodeTableWord 8 w = some (.wrS (BitVec.ofNat 7 (w % 64)) [])) ∧
    (w / 64 % 2 = 1 → decodeTableWord 8 w = none) := by
  refine ⟨fun h => ?_, fun h => ?_, fun h => decodeTableWord_of_error ?_⟩
  · obtain ⟨reg, hreg, hok⟩ := decodeHeader_word8 (w := w) (by omega)
    rw [headerDir_ofNat8, if_neg (by omega)] at hok
    refine decodeTableWord_of_request ((requestOfTableWord_8 hw).trans (requestOfHeader_rd hok)) ?_
    rw [hreg]
    exact decode_read_short (by omega) 0
  · obtain ⟨reg, hreg, hok⟩ := decodeHeader_word8 (w := w) (by omega)
    rw [headerDir_ofNat8, if_pos (by omega)] at hok
    refine decodeTableWord_of_request ((requestOfTableWord_8 hw).trans (requestOfHeader_wr hok)) ?_
    rw [hreg]
    exact decode_write_short (by omega) []
  · rw [requestOfTableWord_8 hw]
    exact requestOfHeader_error (decodeHeader_word8_ne h)

/-! ## Words of 24 bits -/

/-- R76, R80: the address in a word of 24 bits: its low seven bits in bits 14:8, the others in bits 7:0. -/
def addressOfWord24 (w : Nat) : Addr := BitVec.ofNat 15 (128 * (w % 256) + w / 256 % 128)

theorem addressOfWord24_toNat (w : Nat) : (addressOfWord24 w).toNat = 128 * (w % 256) + w / 256 % 128 := by
  rw [addressOfWord24, BitVec.toNat_ofNat]
  omega

/-- The word's address is the one its second and third byte carry. -/
theorem addressOfWord24_eq {w : Nat} (h15 : w / 32768 % 2 = 0) :
    (BitVec.ofNat 8 (w >>> 8)).setWidth 15 ||| ((BitVec.ofNat 8 w).setWidth 15 <<< 7) = addressOfWord24 w := by
  have h17 : (BitVec.ofNat 8 (w >>> 8)).getLsbD 7 = false := by
    rw [ofNat8_getLsbD _ 7 (by decide), Nat.shiftRight_eq_div_pow]
    exact decide_eq_false (by omega)
  obtain ⟨hfield1, hfield2⟩ := address_of_bytes_fields _ (BitVec.ofNat 8 w) h17
  have hhigh : (128 * (w % 256) + w / 256 % 128) / 128 = w % 256 := by omega
  apply address_of_fields
  · rw [hfield1]
    apply BitVec.eq_of_toNat_eq
    simp only [BitVec.extractLsb'_toNat, addressOfWord24_toNat, BitVec.toNat_ofNat, Nat.shiftRight_eq_div_pow]
    omega
  · rw [hfield2]
    apply BitVec.eq_of_toNat_eq
    simp only [BitVec.extractLsb'_toNat, addressOfWord24_toNat, BitVec.toNat_ofNat, Nat.shiftRight_eq_div_pow,
      Nat.reducePow, hhigh]
    omega

/-- R80: a word of 24 bits under the pattern of an X row is the extended header of its address. -/
theorem decodeHeader_word24 {w : Nat} (hrow : w / 32768 = 128 ∨ w / 32768 = 384) (hnz : w % 256 ≠ 0) :
    decodeHeader (headerOfWord24 w) = .ok (if w / 32768 = 384 then .wr else .rd, addressOfWord24 w, []) := by
  have hfirst : BitVec.ofNat 8 (w >>> 16) = if w / 32768 = 384 then 0xC0#8 else 0x40#8 := by
    have hval : w >>> 16 = if w / 32768 = 384 then 0xC0 else 0x40 := by
      rw [Nat.shiftRight_eq_div_pow]; split <;> omega
    rw [hval]; split <;> rfl
  have h17 : (BitVec.ofNat 8 (w >>> 8)).getLsbD 7 = false := by
    rw [ofNat8_getLsbD _ 7 (by decide), Nat.shiftRight_eq_div_pow]
    exact decide_eq_false (by omega)
  have hthird : BitVec.ofNat 8 w ≠ 0#8 := by
    rw [Ne, ← BitVec.toNat_inj, BitVec.toNat_ofNat]
    exact hnz
  rw [headerOfWord24, hfirst, ← addressOfWord24_eq (by omega)]
  split <;> exact decodeHeader_long (by decide) (by decide) h17 hthird []

/-- A header of three bytes has the pattern of an X row, and its third byte is not 0 (R79). -/
theorem word24_of_decodeHeader {w : Nat} (hw : w < 2 ^ 24) {d : Dir} {reg : Addr}
    (hok : decodeHeader (headerOfWord24 w) = .ok (d, reg, [])) :
    (w / 32768 = 128 ∨ w / 32768 = 384) ∧ w % 256 ≠ 0 := by
  rcases decodeHeader_ok_cases hok with ⟨h0, hbytes, -⟩ | ⟨h0, h1, h2, hbytes, h6, hlow, h17, hnz, -, -⟩
  · exact absurd (congrArg List.length hbytes) (by simp [headerOfWord24])
  · obtain ⟨rfl, rfl, rfl, -⟩ : _ ∧ _ ∧ _ ∧ True := by simpa only [headerOfWord24, List.cons.injEq] using hbytes
    have hfirst : (BitVec.ofNat 8 (w >>> 16)).toNat = 0x40 ∨ (BitVec.ofNat 8 (w >>> 16)).toNat = 0xC0 := by
      rw [longByte_of_fields h6 hlow]
      cases headerDir (BitVec.ofNat 8 (w >>> 16)) <;> decide
    rw [ofNat8_getLsbD _ 7 (by decide)] at h17
    have h17 := of_decide_eq_false h17
    rw [Ne, ← BitVec.toNat_inj, BitVec.toNat_ofNat] at hnz
    simp only [BitVec.toNat_ofNat, Nat.shiftRight_eq_div_pow] at hfirst h17
    exact ⟨by omega, hnz⟩

/-- R80: the rows RD.X and WR.X over every word of 24 bits. -/
theorem decodeTableWord_24 {w : Nat} (hw : w < 2 ^ 24) :
    (w / 32768 = 128 → w % 256 ≠ 0 → decodeTableWord 24 w = some (.rdX (addressOfWord24 w) 0)) ∧
    (w / 32768 = 384 → w % 256 ≠ 0 → decodeTableWord 24 w = some (.wrX (addressOfWord24 w) [])) ∧
    (¬ ((w / 32768 = 128 ∨ w / 32768 = 384) ∧ w % 256 ≠ 0) → decodeTableWord 24 w = none) := by
  have haddr := addressOfWord24_toNat w
  refine ⟨fun h hnz => ?_, fun h hnz => ?_, fun h => decodeTableWord_of_error ?_⟩
  · have hok := decodeHeader_word24 (.inl h) hnz
    rw [if_neg (by omega)] at hok
    refine decodeTableWord_of_request ((requestOfTableWord_24 hw).trans (requestOfHeader_rd hok)) ?_
    rw [decode_read_long (by omega) (addressOfWord24 w).isLt, BitVec.ofNat_toNat, BitVec.setWidth_eq]
  · have hok := decodeHeader_word24 (.inr h) hnz
    rw [if_pos h] at hok
    refine decodeTableWord_of_request ((requestOfTableWord_24 hw).trans (requestOfHeader_wr hok)) ?_
    rw [decode_write_long (by omega) (addressOfWord24 w).isLt, BitVec.ofNat_toNat, BitVec.setWidth_eq]
  · rw [requestOfTableWord_24 hw]
    exact requestOfHeader_error fun d reg hok => h (word24_of_decodeHeader hw hok)

/-- Settles O52: each mask keeps the bits from its lowest on, so a pattern is the number those bits make. -/
theorem headerRowsByMatchAndMask : Obligations.HeaderRowsByMatchAndMask := by
  constructor
  · intro w hw
    obtain ⟨hrd, hwr, hnone⟩ := decodeTableWord_8 hw
    rw [and_0xC0 hw]
    exact ⟨fun h => hrd (by omega), fun h => hwr (by omega), fun h h' => hnone (by omega)⟩
  · intro w hw
    obtain ⟨hrd, hwr, hnone⟩ := decodeTableWord_24 hw
    rw [and_0xFF8000 hw]
    exact ⟨fun h => hrd (by omega), fun h => hwr (by omega), fun h h' => hnone (by omega), fun h => hnone (by omega)⟩

/-- Settles O9: eleven words of fixed bits, each by evaluation. -/
theorem tableWordsDecode : Obligations.TableWordsDecode := by
  unfold Obligations.TableWordsDecode
  decide

end Sys2Proof
end

section
/-! SUPPORT. A step by the request it takes (spec/00_scope.md R11, spec/30_encoding.md R83), the admission of operations
(spec/60_exceptions.md R182, R183), and the statements about which requests and operations run. -/

namespace Sys2Proof.Machine

/-! ## A step by its request -/

/-- R11: the next request runs as the operation it decodes to, in the state without it. -/
theorem step_of_decoded {s : State} {r : Request} {rest : List Request} {i : Instr} (hcalls : s.calls = r :: rest)
    (hdecode : decode r = .ok i) : step s = exec i { s with calls := rest } := by
  simp only [step, State.fetch, hcalls, hdecode]

/-- R83, R102: a request that names no operation is refused with the reason. -/
theorem step_of_undecoded {s : State} {r : Request} {rest : List Request} {e : DecodeError}
    (hcalls : s.calls = r :: rest) (hdecode : decode r = .error e) : step s = .refused (.noSuchOperation e) := by
  simp only [step, State.fetch, hcalls, hdecode]

theorem step_of_no_call {s : State} (hcalls : s.calls = []) : step s = .next s := by
  simp only [step, State.fetch, hcalls]

/-- The request placed for a word decodes to the word's operation. -/
theorem decode_tableRequest {nbits w : Nat} {i : Instr} (h : decodeTableWord nbits w = some i) :
    decode (tableRequest nbits w) = .ok i := by
  unfold decodeTableWord at h
  split at h
  next => cases h
  next r hr =>
    split at h
    next j hj =>
      obtain rfl := Option.some.inj h
      simp only [tableRequest, hr, hj]
    next => cases h

/-! ## Admission -/

/-- R183: `Uninit` admits `init` and nothing else. -/
theorem uninit_admitted_iff (i : Instr) : CtlState.uninit ∈ admittedStates i ↔ i = .init := by
  cases i <;> simp [admittedStates]

/-- R183: every state but `Uninit` admits the transport's operations. -/
theorem mem_of_ne_uninit {c : CtlState} (h : c ≠ .uninit) : c ∈ [CtlState.ready, .configured, .listening] := by
  cases c <;> simp_all

/-- A direct transfer is refused under its own length. -/
theorem exec_transfer_too_long {i : Instr} {s : State} {n : Nat} (hidle : s.seq.phase = .idle)
    (hrow : s.ctl.state ∈ admittedStates i) (hlens : transferLengths s.par i = [n]) (hlong : s.par.maxXferLen < n) :
    exec i s = .refused (.transferTooLong n) := by
  have htoo : tooLong s.par i = some n := by simp [tooLong, hlens, hlong]
  rw [exec_eq_accept, State.accept, if_pos hidle, if_pos ((admits_iff _ _).mpr hrow), htoo]

end Sys2Proof.Machine

namespace Sys2Proof
open Machine

/-- Settles O8: the decoder refuses the two codes, and the step hands its reason on. -/
theorem reservedCommandCodesRefused : Obligations.ReservedCommandCodesRefused :=
  fun _ _ arg _ hcalls hcode => step_of_undecoded hcalls (decode_reservedCommand hcode arg)

/-- Settles O10: one lemma about `step` for each clause. -/
theorem stepRunsTheDecodedOperation : Obligations.StepRunsTheDecodedOperation :=
  ⟨fun _ _ _ _ => step_of_decoded, fun _ _ _ _ => step_of_undecoded, fun _ => step_of_no_call⟩

/-- Settles O11: the word's request is the next one taken, and taking it leaves the state as it was before it was
placed. -/
theorem fetchWordRunsItsOperation : Obligations.FetchWordRunsItsOperation :=
  fun s _ _ _ h => step_of_decoded (State.present_calls s _) (decode_tableRequest h)

/-- Settles O12: the registers by their values at power-on; of the operations only `init` has `Uninit` in its row. -/
theorem powerOnAdmitsOnlyInit : Obligations.PowerOnAdmitsOnlyInit :=
  ⟨rfl, rfl, rfl, rfl, ⟨_, exec_of_accepted rfl ((uninit_admitted_iff .init).mpr rfl) trivial⟩,
    fun i hne => exec_not_admitted rfl fun hrow => hne ((uninit_admitted_iff i).mp hrow)⟩

/-- Settles O13: refusal and acceptance by the operation's row, neither of which looks at the environment. -/
theorem admissionDecidesWhatRuns : Obligations.AdmissionDecidesWhatRuns :=
  fun _ _ hidle => ⟨exec_not_admitted hidle, fun hrow hfit => ⟨_, exec_of_accepted hidle hrow hfit⟩⟩

/-- Settles O14: the addresses by the decoder, the direct transfers by their one length, every other operation by
`exec_too_long`. -/
theorem transfersOutsideTheDomainRefused : Obligations.TransfersOutsideTheDomainRefused := by
  refine ⟨fun s reg n rest hcalls hreg => step_of_undecoded hcalls (decode_read_outside hreg n),
    fun s reg l rest hcalls hreg => step_of_undecoded hcalls (decode_write_outside hreg l),
    fun s n hidle hstate hlong => ?_, fun s l hidle hstate hlong => ?_, fun s i => exec_too_long⟩
  all_goals
    have hrow := mem_of_ne_uninit hstate
    exact ⟨fun _ => exec_transfer_too_long hidle hrow rfl hlong, fun _ => exec_transfer_too_long hidle hrow rfl hlong⟩

end Sys2Proof
end

section
/-! SUPPORT. The invariant of the block between operations (spec/10_state.md sections 2 and 3,
spec/70_reset_and_hazards.md R211, R213), clause by clause over one operation, and the statements that every step keeps
it. -/

namespace Sys2Proof.Machine

/-- R183: an operation other than `init` that completes was called after bring-up. -/
theorem exec_state_ne_uninit {i : Instr} {s t : State} (h : exec i s = .next t) (hinit : i ≠ .init) :
    s.ctl.state ≠ .uninit := by
  obtain ⟨-, hrow, -, -⟩ := (exec_next_iff _ _ _).mp h
  intro hc
  rw [hc] at hrow
  exact hinit ((uninit_admitted_iff i).mp hrow)

/-- R121: `init` that completes was called in `Uninit`. -/
theorem exec_init_state {s t : State} (h : exec .init s = .next t) : s.ctl.state = .uninit := by
  obtain ⟨-, hrow, -, -⟩ := (exec_next_iff _ _ _).mp h
  exact List.mem_singleton.mp hrow

/-- R30: a transition other than that of `configure` enters `Configured` or `Listening` only from one of the two. -/
theorem configured_before {i : Instr} {c : CtlState} (hrow : c ∈ admittedStates i) (hcfg : ∀ cfg, i ≠ .configure cfg)
    (hafter : transition i c = .configured ∨ transition i c = .listening) : c = .configured ∨ c = .listening := by
  cases i with
  | configure cfg => exact absurd rfl (hcfg cfg)
  | rdS reg len => exact hafter
  | wrS reg payload => exact hafter
  | rdX reg len => exact hafter
  | wrX reg payload => exact hafter
  | isFrameReady => exact hafter
  | init => simp [transition] at hafter
  | reset => simp [transition] at hafter
  | rxEnable hint => simpa [admittedStates] using hrow
  | readFrame => exact .inr (by simpa [admittedStates] using hrow)

section
variable {i : Instr} {s t : State} {r : Response} {events : List Event}

/-- R32: the retry counter stays within its bound. -/
theorem Completed.attempts_le (hdone : Completed i s t r events) (hbound : s.initAttempt ≤ s.par.nIdAttempts) :
    t.initAttempt ≤ t.par.nIdAttempts := by
  rw [hdone.par]
  by_cases hinit : i = .init
  · cases hres : s.answered 0 with
    | true => exact hdone.attempts hinit hres
    | false => rw [hdone.attemptsKept hinit hres]; exact hbound
  · rw [(hdone.runTime hinit).1]; exact hbound

/-- R211, R213: once the chip has been brought up, the clock is fast and both lines are high. -/
theorem Completed.brought_up (h : exec i s = .next t) (hdone : Completed i s t r events)
    (hup : s.ctl.state ≠ .uninit → s.clk = .fast ∧ s.gpio.wake = true ∧ s.gpio.resetN = true)
    (hstate : t.ctl.state ≠ .uninit) : t.clk = .fast ∧ t.gpio.wake = true ∧ t.gpio.resetN = true := by
  by_cases hinit : i = .init
  · cases r with
    | ok v =>
      obtain ⟨hclk, hgpio⟩ := hdone.initOnOk hinit v rfl
      rw [hgpio]
      exact ⟨hclk, rfl, rfl⟩
    | error e =>
      subst hinit
      rw [hdone.ctlOnError e rfl, exec_init_state h] at hstate
      exact absurd rfl hstate
  · obtain ⟨-, hclk, hgpio, -⟩ := hdone.runTime hinit
    rw [hclk, hgpio]
    exact hup (exec_state_ne_uninit h hinit)

/-- R24: in `Configured` and `Listening` a configuration is latched. -/
theorem Completed.latched (h : exec i s = .next t) (hdone : Completed i s t r events)
    (hlatched : s.ctl.state = .configured ∨ s.ctl.state = .listening → s.ctl.cfgValid = true)
    (hstate : t.ctl.state = .configured ∨ t.ctl.state = .listening) : t.ctl.cfgValid = true := by
  obtain ⟨-, hrow, -, -⟩ := (exec_next_iff _ _ _).mp h
  cases r with
  | error e =>
    rw [hdone.ctlOnError e rfl] at hstate ⊢
    exact hlatched hstate
  | ok v =>
    by_cases hcfg : ∃ cfg, i = .configure cfg
    · exact hdone.cfgOnOk hcfg v rfl
    · rw [not_exists] at hcfg
      rw [hdone.stateOnOk v rfl] at hstate
      rw [(hdone.cfg hcfg).2]
      exact hlatched (configured_before hrow hcfg hstate)

end

/-- Every operation that completes keeps the invariant. -/
theorem exec_keeps_inv {i : Instr} {s t : State} (hinv : s.Inv) (h : exec i s = .next t) : t.Inv := by
  obtain ⟨-, hlen, hattempts, hup, hlatched⟩ := hinv
  obtain ⟨r, events, hdone⟩ := exec_changes h
  have hlen' : t.op.len ≤ t.par.maxXferLen := by
    rw [hdone.par]
    rcases hdone.opLen with hle | heq
    · exact hle
    · rw [heq]; exact hlen
  exact ⟨hdone.phase, hlen', hdone.attempts_le hattempts, Completed.brought_up h hdone hup,
    Completed.latched h hdone hlatched⟩

end Sys2Proof.Machine

namespace Sys2Proof
open Machine

/-- Settles O44: a step without a request changes nothing, and one with a request is an operation, which keeps the
invariant by `exec_keeps_inv`; the invariant does not speak of the requests. -/
theorem everyStepKeepsTheBlockInOrder : Obligations.EveryStepKeepsTheBlockInOrder := by
  intro s t hinv hstep
  rcases step_next_cases hstep with ⟨-, rfl⟩ | ⟨r, rest, i, -, -, hexec⟩
  · exact hinv
  · exact exec_keeps_inv (s := { s with calls := rest }) hinv hexec

/-- Settles O45: the power-on values clause by clause; in `Uninit` nothing is asked of the clock, the lines and the
latch. -/
theorem powerOnIsInOrder : Obligations.PowerOnIsInOrder :=
  ⟨⟨rfl, Nat.zero_le _, Nat.zero_le _, fun h => absurd rfl h, fun h => by rcases h with h | h <;> cases h⟩, rfl⟩

/-- Settles O47: after bring-up the invariant has the clock fast, and a run-time operation keeps it and makes quiet
events only. -/
theorem runTimeOperationsKeepTheFastClock : Obligations.RunTimeOperationsKeepTheFastClock := by
  intro i s t hinv hinit h
  obtain ⟨-, -, -, hup, -⟩ := hinv
  obtain ⟨hfast, -, -⟩ := hup (exec_state_ne_uninit h hinit)
  obtain ⟨r, events, hdone⟩ := exec_changes h
  obtain ⟨-, hclk, -, hquiet⟩ := hdone.runTime hinit
  refine ⟨hfast, hclk.trans hfast, events, hdone.trace, fun rate hmem => ?_⟩
  cases hquiet _ hmem

/-- Settles O40: the fields of `exec_changes` that speak of the result, the trace and the controller. -/
theorem onlySuccessMovesTheController : Obligations.OnlySuccessMovesTheController := by
  intro i s t h
  obtain ⟨r, events, hdone⟩ := exec_changes h
  exact ⟨r, events, hdone.results, hdone.trace, hdone.ctlOnError, hdone.stateOnOk⟩

/-- Settles O41: the fields of `exec_changes` that say what stays. -/
theorem eachRegisterHasItsWriter : Obligations.EachRegisterHasItsWriter := by
  intro i s t h
  obtain ⟨r, events, hdone⟩ := exec_changes h
  refine ⟨hdone.rx, hdone.cfg, fun hinit => ?_, hdone.par, hdone.calls⟩
  obtain ⟨hattempt, hclk, hgpio, -⟩ := hdone.runTime hinit
  exact ⟨hattempt, hclk, hgpio⟩

end Sys2Proof
end

section
/-! SUPPORT. Which error an operation can return (spec/60_exceptions.md R170 to R174): the run-time operations are made
of steps that raise a transport error alone, `init` raises its own; and the statement that each error has its
operations. -/

namespace Sys2Proof.Machine

/-! ## The last result -/

@[simp] theorem State.lastResult_respond (s : State) (r : Response) : (s.respond r).lastResult = some r := by
  simp [lastResult]

@[simp] theorem State.lastResult_takeError (s : State) (e : Error) : (s.takeError e).lastResult = some (.error e) :=
  s.lastResult_respond _

theorem State.lastResult_of_results {t : State} {earlier : List Response} {r : Response}
    (h : t.results = earlier ++ [r]) : t.lastResult = some r := by
  simp [lastResult, h]

/-! ## Parts of an operation that raise a transport error or none -/

/-- No error but a bus fault's is raised (R103, R104). -/
def Run.RaisesFaultsOnly {α : Type} (r : Run α) : Prop := ∀ e u, r = .raise e u → e = .transportError

theorem Run.ok_raisesFaultsOnly {α : Type} (a : α) (s : State) : (Run.ok a s).RaisesFaultsOnly :=
  fun _ _ h => by cases h

theorem read_raisesFaultsOnly (reg : Addr) (n : Nat) (s : State) : (read reg n s).RaisesFaultsOnly := by
  intro e u h
  rcases read_cases reg n s with ⟨b, -, hr⟩ | ⟨k, -, hr⟩ <;> rw [hr] at h <;> cases h
  rfl

theorem write_raisesFaultsOnly (reg : Addr) (bytes : List Byte) (s : State) : (write reg bytes s).RaisesFaultsOnly := by
  intro e u h
  rcases write_cases reg bytes s with ⟨b, -, hr⟩ | ⟨k, -, hr⟩ <;> rw [hr] at h <;> cases h
  rfl

theorem Run.andThen_raisesFaultsOnly {α β : Type} {r : Run α} {k : α → State → Run β} (hr : r.RaisesFaultsOnly)
    (hk : ∀ a s, (k a s).RaisesFaultsOnly) : (r.andThen k).RaisesFaultsOnly := by
  cases r with
  | ok a s => exact hk a s
  | raise e s =>
    intro e' u h
    cases h
    exact hr e s rfl

theorem Run.onRaise_raisesFaultsOnly {α : Type} {r : Run α} (hr : r.RaisesFaultsOnly) (f : State → State) :
    (r.onRaise f).RaisesFaultsOnly := by
  cases r with
  | ok a s => exact Run.ok_raisesFaultsOnly a s
  | raise e s =>
    intro e' u h
    cases h
    exact hr e s rfl

/-- The result of a part that raises faults only is its value or `TransportError`. -/
theorem Run.finish_error {α : Type} {r : Run α} (hr : r.RaisesFaultsOnly) (value : α → Value) {e : Error}
    (h : (r.finish value).lastResult = some (.error e)) : e = .transportError := by
  cases r with
  | ok a s => simp [Run.finish] at h
  | raise e' s =>
    obtain rfl : e' = e := by simpa [Run.finish] using h
    exact hr e' s rfl

theorem runReadFrame_raisesFaultsOnly (s : State) : (runReadFrame s).RaisesFaultsOnly :=
  Run.andThen_raisesFaultsOnly (read_raisesFaultsOnly _ _ s) fun _ s =>
  Run.andThen_raisesFaultsOnly (read_raisesFaultsOnly _ _ s) fun _ s =>
  Run.andThen_raisesFaultsOnly (read_raisesFaultsOnly _ _ s) fun _ s =>
  Run.andThen_raisesFaultsOnly (read_raisesFaultsOnly _ _ s) fun _ s =>
  Run.andThen_raisesFaultsOnly (read_raisesFaultsOnly _ _ s) fun _ s =>
  Run.andThen_raisesFaultsOnly (write_raisesFaultsOnly _ _ s) fun _ _ => Run.ok_raisesFaultsOnly _ _

theorem runConfigure_raisesFaultsOnly (cfg : ChipConfig) (s : State) : (runConfigure cfg s).RaisesFaultsOnly :=
  Run.andThen_raisesFaultsOnly (write_raisesFaultsOnly _ _ s) fun _ s =>
  Run.andThen_raisesFaultsOnly (write_raisesFaultsOnly _ _ s) fun _ _ => Run.ok_raisesFaultsOnly _ _

/-! ## Every operation -/

/-- R149: `isFrameReady` catches the one error it could return. -/
theorem runOp_isFrameReady_ok (s : State) : ∃ v, (runOp .isFrameReady s).lastResult = some (.ok v) := by
  obtain ⟨u, -, -, hr⟩ := runIsFrameReady_cases s
  exact ⟨_, by rw [runOp, hr]; exact State.lastResult_respond u _⟩

/-- R171, R172: the one error of every operation but `init`. -/
theorem runOp_error {i : Instr} {s : State} {e : Error} (hinit : i ≠ .init)
    (h : (runOp i s).lastResult = some (.error e)) : e = .transportError := by
  cases i with
  | init => exact absurd rfl hinit
  | rdS reg len => exact Run.finish_error (read_raisesFaultsOnly _ _ s) _ h
  | wrS reg payload => exact Run.finish_error (write_raisesFaultsOnly _ _ s) _ h
  | rdX reg len => exact Run.finish_error (read_raisesFaultsOnly _ _ s) _ h
  | wrX reg payload => exact Run.finish_error (write_raisesFaultsOnly _ _ s) _ h
  | configure cfg => exact Run.finish_error (runConfigure_raisesFaultsOnly cfg s) _ h
  | rxEnable hint =>
    exact Run.finish_error (Run.andThen_raisesFaultsOnly (write_raisesFaultsOnly _ _ s)
      fun _ _ => Run.ok_raisesFaultsOnly _ _) _ h
  | isFrameReady =>
    obtain ⟨v, hv⟩ := runOp_isFrameReady_ok s
    simp [hv] at h
  | readFrame => exact Run.finish_error (Run.onRaise_raisesFaultsOnly (runReadFrame_raisesFaultsOnly s) _) _ h
  | reset =>
    exact Run.finish_error (Run.andThen_raisesFaultsOnly (write_raisesFaultsOnly _ _ s)
      fun _ _ => Run.ok_raisesFaultsOnly _ _) _ h

/-- R130: the two values of `ID_EXHAUST_ERR`. -/
theorem exhaustError_cases (p : Config.Params) :
    exhaustError p = .timeout ∨ exhaustError p = .deviceNotReady := by
  unfold exhaustError
  cases p.idExhaustErr with
  | timeout => exact .inl rfl
  | deviceNotReady => exact .inr rfl

/-- R122, R129, R130: the result of `init`: `Ok`, or one of three errors. -/
theorem runInit_lastResult (s : State) :
    ∃ r, (runInit s).lastResult = some r ∧
      (r = .ok .none ∨ r = .error .deviceNotReady ∨ r = .error .timeout ∨ r = .error .invalidDeviceId) := by
  rcases runInit_cases s with ⟨-, hrun⟩ | ⟨-, bad, b, t, -, -, -, -, hrun⟩
  · exact ⟨_, by rw [hrun]; exact State.lastResult_takeError _ _, .inr (.inl rfl)⟩
  · rw [hrun]
    cases judge s.par b with
    | verified => exact ⟨_, State.lastResult_respond _ _, .inl rfl⟩
    | mismatch => exact ⟨_, State.lastResult_takeError _ _, .inr (.inr (.inr rfl))⟩
    | failed =>
      refine ⟨_, State.lastResult_takeError _ _, ?_⟩
      rcases exhaustError_cases s.par with h | h
      · exact .inr (.inr (.inl (congrArg Response.error h)))
      · exact .inr (.inl (congrArg Response.error h))

end Sys2Proof.Machine

namespace Sys2Proof
open Machine

/-- Settles O43: `init` has its own errors (`runInit_lastResult`), every other operation the bus fault's
(`runOp_error`), and `isFrameReady` none. -/
theorem eachErrorHasItsOperations : Obligations.EachErrorHasItsOperations := by
  intro i s t e h hresult
  obtain ⟨-, -, -, rfl⟩ := (exec_next_iff _ _ _).mp h
  have hlast := State.lastResult_of_results hresult
  refine ⟨fun hne => ?_, ?_, ?_⟩
  · by_contra hinit
    exact hne (runOp_error hinit hlast)
  · rintro rfl rfl
    obtain ⟨r, hr, hcases⟩ := runInit_lastResult s
    obtain rfl := Option.some.inj (hr.symm.trans hlast)
    simp at hcases
  · rintro rfl
    obtain ⟨v, hv⟩ := runOp_isFrameReady_ok s
    simp [hv] at hlast

/-- Settles O51: the codes by definition. -/
theorem statusCodes : Obligations.StatusCodes := ⟨fun _ => rfl, rfl, rfl, rfl, rfl⟩

end Sys2Proof
end

section
/-! SUPPORT. The direct calls of the transport port (spec/40_transport.md R103, R104, R106): how a read and a write end,
for both rows of each, and the statements about them. -/

namespace Sys2Proof.Machine

/-- A movement over the bus changes the transport's registers alone (R103, R104). -/
theorem BusMoved.sameButTransport {s t : State} {events : List Event} (h : BusMoved s t events) : SameButTransport s t :=
  ⟨h.ctl, h.initAttempt, h.rx, h.clk, h.gpio, h.par, h.calls⟩

/-! ## The header register after a transaction (R105) -/

theorem State.readDone_header (reg : Addr) (n : Nat) (s : State) :
    (s.readDone reg n).seq.header = encodeHeader Config.opRead reg := s.seq.load_header Config.opRead reg

theorem State.writeDone_header (reg : Addr) (bytes : List Byte) (s : State) :
    (s.writeDone reg bytes).seq.header = encodeHeader Config.opWrite reg := s.seq.load_header Config.opWrite reg

section
variable {i : Instr} {reg : Addr} {s : State}

/-- R103: an accepted read, of either row, that the bus answers. -/
theorem exec_read_answered {n : Nat} {bytes : List Byte} (hexec : exec i s = .next (runOp i s))
    (hrun : runOp i s = (read reg n s).finish .bytes) (hgot : s.received 0 n = some bytes) :
    ∃ t, exec i s = .next t ∧ t.results = s.results ++ [Response.ok (.bytes bytes)] ∧
      t.trace = s.trace ++ [Event.busRead (encodeHeader Config.opRead reg) n (some bytes)] ∧
      t.op = ⟨reg, n, .rd⟩ ∧ t.seq.phase = .idle ∧ t.seq.idx = n ∧ t.seq.header = encodeHeader Config.opRead reg ∧
      SameButTransport s t := by
  have hend : runOp i s = (s.readDone reg n).respond (.ok (.bytes bytes)) := by
    rw [hrun, read_of_some hgot, Run.finish]
  have hmoved := readDone_moved (reg := reg) hgot
  rw [hend] at hexec
  exact ⟨_, hexec, rfl, hmoved.trace, rfl, rfl, rfl, s.readDone_header reg n, hmoved.sameButTransport⟩

/-- R104: an accepted write, of either row, that the bus accepts. -/
theorem exec_write_answered {bytes : List Byte} (hexec : exec i s = .next (runOp i s))
    (hrun : runOp i s = (write reg bytes s).finish fun _ => .none) (hgot : s.answered 0 = true) :
    ∃ t, exec i s = .next t ∧ t.results = s.results ++ [Response.ok .none] ∧
      t.trace = s.trace ++ [Event.busWrite (encodeHeader Config.opWrite reg) bytes true] ∧
      t.op = ⟨reg, bytes.length, .wr⟩ ∧ t.seq.phase = .idle ∧ t.seq.idx = bytes.length ∧
      t.seq.header = encodeHeader Config.opWrite reg ∧ SameButTransport s t := by
  have hend : runOp i s = (s.writeDone reg bytes).respond (.ok .none) := by
    rw [hrun, write_of_true hgot, Run.finish]
  have hmoved : BusMoved s (s.writeDone reg bytes) _ := writeDone_moved
  rw [hend] at hexec
  exact ⟨_, hexec, rfl, hmoved.trace, rfl, rfl, rfl, s.writeDone_header reg bytes, hmoved.sameButTransport⟩

/-- R106: an operation whose one transaction is faulted ends there: one attempt, the error, the sequencer idle. -/
theorem exec_faulted {u : State} {e : Event} (hexec : exec i s = .next (runOp i s))
    (hrun : runOp i s = u.takeError .transportError) (hmoved : BusMoved s u [e]) :
    ∃ t, exec i s = .next t ∧ t.results = s.results ++ [Response.error .transportError] ∧ t.trace = s.trace ++ [e] ∧
      SameButTransport s t ∧ t.seq.phase = .idle := by
  rw [hrun] at hexec
  refine ⟨_, hexec, ?_, hmoved.trace, hmoved.sameButTransport, hmoved.phase⟩
  rw [State.takeError_results, hmoved.results]

/-- R106 for an accepted read, of either row. -/
theorem exec_read_faulted {n : Nat} (hexec : exec i s = .next (runOp i s))
    (hrun : runOp i s = (read reg n s).finish .bytes) (hfault : s.answered 0 = false) :
    ∃ t, exec i s = .next t ∧ t.results = s.results ++ [Response.error .transportError] ∧
      t.trace = s.trace ++ [Event.busRead (encodeHeader Config.opRead reg) n none] ∧
      SameButTransport s t ∧ t.seq.phase = .idle := by
  have hnone := State.received_none (n := n) hfault
  refine exec_faulted hexec ?_ (readFailed_moved hnone)
  rw [hrun, read_of_none hnone, Run.finish]

/-- R106 for an accepted write, of either row. -/
theorem exec_write_faulted {bytes : List Byte} (hexec : exec i s = .next (runOp i s))
    (hrun : runOp i s = (write reg bytes s).finish fun _ => .none) (hfault : s.answered 0 = false) :
    ∃ t, exec i s = .next t ∧ t.results = s.results ++ [Response.error .transportError] ∧
      t.trace = s.trace ++ [Event.busWrite (encodeHeader Config.opWrite reg) bytes false] ∧
      SameButTransport s t ∧ t.seq.phase = .idle := by
  refine exec_faulted hexec ?_ (writeFailed_moved hfault)
  rw [hrun, write_of_false hfault, Run.finish]

end

end Sys2Proof.Machine

namespace Sys2Proof
open Machine

/-- Settles O15: both rows are `read` at their address (`exec_read_answered`). -/
theorem readReturnsTheBytesReceived : Obligations.ReadReturnsTheBytesReceived := by
  intro s n bytes hidle hstate hfit hgot
  have hrow := mem_of_ne_uninit hstate
  exact ⟨State.received_length hgot,
    fun reg => exec_read_answered (exec_of_accepted (i := .rdS reg n) hidle hrow hfit) rfl hgot,
    fun reg => exec_read_answered (exec_of_accepted (i := .rdX reg n) hidle hrow hfit) rfl hgot⟩

/-- Settles O16: both rows are `write` at their address (`exec_write_answered`). -/
theorem writeSendsThePayload : Obligations.WriteSendsThePayload := by
  intro s l hidle hstate hfit hgot
  have hrow := mem_of_ne_uninit hstate
  exact ⟨fun reg => exec_write_answered (exec_of_accepted (i := .wrS reg l) hidle hrow hfit) rfl hgot,
    fun reg => exec_write_answered (exec_of_accepted (i := .wrX reg l) hidle hrow hfit) rfl hgot⟩

/-- Settles O17: row by row, the event that of the row's own direction. -/
theorem transportFaultIsReturnedAndNotRetried : Obligations.TransportFaultIsReturnedAndNotRetried := by
  intro s i n l hidle hstate hn hl hfault hi
  have hrow := mem_of_ne_uninit hstate
  rcases hi with ⟨reg, rfl⟩ | ⟨reg, rfl⟩ | ⟨reg, rfl⟩ | ⟨reg, rfl⟩
  case' inl => have hend := exec_read_faulted (exec_of_accepted (i := .rdS reg n) hidle hrow hn) rfl hfault
  case' inr.inl => have hend := exec_read_faulted (exec_of_accepted (i := .rdX reg n) hidle hrow hn) rfl hfault
  case' inr.inr.inl => have hend := exec_write_faulted (exec_of_accepted (i := .wrS reg l) hidle hrow hl) rfl hfault
  case' inr.inr.inr => have hend := exec_write_faulted (exec_of_accepted (i := .wrX reg l) hidle hrow hl) rfl hfault
  all_goals obtain ⟨t, hnext, hresults, htrace, hrest⟩ := hend
  case inl | inr.inl => exact ⟨t, _, hnext, rfl, hresults, .inl htrace, hrest⟩
  case inr.inr.inl | inr.inr.inr => exact ⟨t, _, hnext, rfl, hresults, .inr htrace, hrest⟩

end Sys2Proof
end

section
/-! SUPPORT. The sequencer at every byte time of a transaction (spec/40_transport.md R105): where it stands after `m` of
them, what it has sent and received by then, and the statements that it refines the one-step transaction. -/

namespace Sys2Proof.Machine

/-- A transaction whose header register holds `hdr`, after `m` byte times of the `hdr.length + op.len` it takes: the
phase and the index are those of the next byte. -/
structure Xfer.AtTime (op : OpRegs) (hdr : List Byte) (m : Nat) (x : Xfer) : Prop where
  header : x.seq.header = hdr
  failed : x.failed = false
  inHeader : m < hdr.length → x.seq.phase = .header ∧ x.seq.idx = m
  inPayload : hdr.length ≤ m → m < hdr.length + op.len → x.seq.phase = .payload ∧ x.seq.idx = m - hdr.length
  atEnd : m = hdr.length + op.len → x.seq.phase = .idle

/-- The byte at an index within the header register (R22). -/
theorem SeqRegs.header_getElem? (q : SeqRegs) {i : Nat} (h : i < q.header.length) : q.header[i]? = some (q.hdrAt i) := by
  unfold header at h ⊢
  cases hl : q.hdrLen <;> simp only [hl, List.length_cons, List.length_nil] at h <;> interval_cases i <;> rfl

section
variable {op : OpRegs} {hdr : List Byte} {m : Nat} {x : Xfer}

/-- R105: the sequencer is idle exactly at the end. -/
theorem Xfer.AtTime.idle_iff (h : x.AtTime op hdr m) (hm : m ≤ hdr.length + op.len) :
    x.seq.phase = .idle ↔ m = hdr.length + op.len := by
  refine ⟨fun hidle => ?_, h.atEnd⟩
  by_contra hne
  rcases Nat.lt_or_ge m hdr.length with hlt | hge
  · simp [(h.inHeader hlt).1] at hidle
  · simp [(h.inPayload hge (by omega)).1] at hidle

/-- The next byte time of a header: the byte at the index is sent (R105). -/
theorem Xfer.AtTime.tick_header (h : x.AtTime op hdr m) (hlt : m < hdr.length) (bytes : List Byte) (b : Byte) :
    (x.tick op bytes (some b)).AtTime op hdr (m + 1) ∧
      (x.tick op bytes (some b)).sent = x.sent ++ hdr[m]?.toList ∧ (x.tick op bytes (some b)).got = x.got := by
  obtain ⟨hphase, hidx⟩ := h.inHeader hlt
  have hlen : hdr.length = x.seq.hdrLen.toNat := by rw [← h.header, SeqRegs.header_length]
  have hbyte : hdr[m]? = some (x.seq.hdrAt m) := by
    rw [← h.header]; exact x.seq.header_getElem? (by rw [h.header]; exact hlt)
  simp only [Xfer.tick, hphase, Xfer.sendHeader, hidx, hbyte, ← hlen]
  split
  · refine ⟨⟨h.header, h.failed, by omega, fun _ hp => ?_, fun he => ?_⟩, rfl, rfl⟩
    · exact ⟨if_neg (by omega), by simp only; omega⟩
    · exact if_pos (by omega)
  · exact ⟨⟨h.header, h.failed, fun _ => ⟨rfl, rfl⟩, by omega, by omega⟩, rfl, rfl⟩

/-- The next byte time of a payload moves the sequencer on, whatever the direction (R105). -/
theorem Xfer.AtTime.tick_payload (h : x.AtTime op hdr m) (hge : hdr.length ≤ m) (hlt : m < hdr.length + op.len)
    (bytes : List Byte) (b : Byte) : (x.tick op bytes (some b)).AtTime op hdr (m + 1) := by
  obtain ⟨hphase, hidx⟩ := h.inPayload hge hlt
  have hseq : (x.tick op bytes (some b)).seq = x.seq.bump op.len ∧ (x.tick op bytes (some b)).failed = x.failed := by
    simp only [Xfer.tick, hphase, Xfer.movePayload]
    cases op.dir <;> exact ⟨rfl, rfl⟩
  obtain ⟨hseq, hfailed⟩ := hseq
  refine ⟨by rw [hseq]; exact h.header, hfailed.trans h.failed, by omega, fun _ hp => ?_, fun he => ?_⟩ <;> rw [hseq]
  · exact ⟨if_neg (by omega), by simp only [SeqRegs.bump]; omega⟩
  · exact if_pos (by omega)

/-- A byte written is the payload's at the index (R104). -/
theorem Xfer.AtTime.tick_payload_write (h : x.AtTime op hdr m) (hge : hdr.length ≤ m) (hlt : m < hdr.length + op.len)
    (hdir : op.dir = .wr) (bytes : List Byte) (b : Byte) :
    (x.tick op bytes (some b)).sent = x.sent ++ bytes[m - hdr.length]?.toList ∧
      (x.tick op bytes (some b)).got = x.got := by
  obtain ⟨hphase, hidx⟩ := h.inPayload hge hlt
  simp only [Xfer.tick, hphase, Xfer.movePayload, hdir, hidx, and_self]

/-- A byte read is the one the chip drives (R103). -/
theorem Xfer.AtTime.tick_payload_read (h : x.AtTime op hdr m) (hge : hdr.length ≤ m) (hlt : m < hdr.length + op.len)
    (hdir : op.dir = .rd) (bytes : List Byte) (b : Byte) :
    (x.tick op bytes (some b)).sent = x.sent ∧ (x.tick op bytes (some b)).got = x.got ++ [b] := by
  obtain ⟨hphase, -⟩ := h.inPayload hge hlt
  simp only [Xfer.tick, hphase, Xfer.movePayload, hdir, and_self]

end

/-- R105: at time 0 the header is loaded and nothing has moved. -/
theorem Xfer.start_atTime (op : OpRegs) (q : SeqRegs) :
    (Xfer.start op q).AtTime op (encodeHeader op.dir.opcode op.reg) 0 := by
  have hpos : 0 < (encodeHeader op.dir.opcode op.reg).length := by
    rw [encodeHeader_length]
    split <;> decide
  exact ⟨q.load_header _ _, rfl, fun _ => ⟨rfl, rfl⟩, by omega, by omega⟩

/-- One byte time more. -/
theorem foldl_take_succ {op : OpRegs} {bytes : List Byte} {inputs : List (Option Byte)} {x : Xfer} {m : Nat}
    {i : Option Byte} (h : inputs[m]? = some i) :
    (inputs.take (m + 1)).foldl (Xfer.tick op bytes) x =
      ((inputs.take m).foldl (Xfer.tick op bytes) x).tick op bytes i := by
  rw [List.take_add_one, h, Option.toList_some, List.foldl_append]
  rfl

/-- The inputs of a write that the bus accepts: a byte of no meaning at every time (D8). -/
theorem busInputs_write {op : OpRegs} {hdrLen : HdrLen} (hdir : op.dir = .wr) (got : List Byte) {m : Nat}
    (hm : m < hdrLen.toNat + op.len) : (busInputs hdrLen op [] (.ok got))[m]? = some (some 0) := by
  simp only [busInputs, hdir, List.replicate_append_replicate, List.getElem?_replicate, if_pos hm]

/-- The inputs of a read that the bus answers: a byte of no meaning at each of the header's times, then the chip's. -/
theorem busInputs_read_header {op : OpRegs} {hdrLen : HdrLen} {chip got : List Byte} {m : Nat} (hm : m < hdrLen.toNat) :
    (busInputs hdrLen op chip (.ok got))[m]? = some (some 0) := by
  simp only [busInputs]
  rw [List.getElem?_append_left (by simpa using hm), List.getElem?_replicate, if_pos hm]

theorem busInputs_read_payload {op : OpRegs} {hdrLen : HdrLen} {chip got : List Byte} {m : Nat} {b : Byte}
    (hdir : op.dir = .rd) (hm : hdrLen.toNat ≤ m) (hb : chip[m - hdrLen.toNat]? = some b) :
    (busInputs hdrLen op chip (.ok got))[m]? = some (some b) := by
  simp only [busInputs, hdir]
  rw [List.getElem?_append_right (by simpa using hm), List.length_replicate, List.getElem?_map, hb]
  rfl

/-- The number of header bytes of a transaction is `seq.hdr_len`. -/
theorem Xfer.start_hdrLen (op : OpRegs) (q : SeqRegs) :
    (Xfer.start op q).seq.hdrLen.toNat = (encodeHeader op.dir.opcode op.reg).length := by
  rw [← SeqRegs.header_length, (Xfer.start_atTime op q).header]

/-- A write by byte times: the first `m` bytes of header and payload have been sent. -/
theorem writeTicks (reg : Addr) (q : SeqRegs) (bytes got : List Byte) (m : Nat)
    (hm : m ≤ (encodeHeader Config.opWrite reg).length + bytes.length) :
    let op : OpRegs := ⟨reg, bytes.length, .wr⟩
    let x := ((busInputs (Xfer.start op q).seq.hdrLen op [] (.ok got)).take m).foldl (Xfer.tick op bytes) (Xfer.start op q)
    x.AtTime op (encodeHeader Config.opWrite reg) m ∧ x.sent = (encodeHeader Config.opWrite reg ++ bytes).take m ∧
      x.got = [] := by
  intro op
  have hhdr : (Xfer.start op q).seq.hdrLen.toNat = (encodeHeader Config.opWrite reg).length := Xfer.start_hdrLen op q
  induction m with
  | zero => exact ⟨Xfer.start_atTime op q, rfl, rfl⟩
  | succ m ih =>
    obtain ⟨hat, hsent, hgot⟩ := ih (by omega)
    rw [foldl_take_succ (busInputs_write rfl got (by rw [hhdr]; exact hm)), List.take_add_one]
    rcases Nat.lt_or_ge m (encodeHeader Config.opWrite reg).length with hlt | hge
    · obtain ⟨hat', hsent', hgot'⟩ := hat.tick_header hlt bytes 0
      exact ⟨hat', by rw [hsent', hsent, List.getElem?_append_left hlt], hgot'.trans hgot⟩
    · obtain ⟨hsent', hgot'⟩ := hat.tick_payload_write hge hm rfl bytes 0
      exact ⟨hat.tick_payload hge hm bytes 0, by rw [hsent', hsent, List.getElem?_append_right hge], hgot'.trans hgot⟩

/-- A read by byte times: the header's bytes have been sent first, then the chip's received. -/
theorem readTicks (reg : Addr) (q : SeqRegs) (chip got : List Byte) (m : Nat)
    (hm : m ≤ (encodeHeader Config.opRead reg).length + chip.length) :
    let op : OpRegs := ⟨reg, chip.length, .rd⟩
    let x := ((busInputs (Xfer.start op q).seq.hdrLen op chip (.ok got)).take m).foldl (Xfer.tick op [])
      (Xfer.start op q)
    x.AtTime op (encodeHeader Config.opRead reg) m ∧ x.sent = (encodeHeader Config.opRead reg).take m ∧
      x.got = chip.take (m - (encodeHeader Config.opRead reg).length) := by
  intro op
  have hhdr : (Xfer.start op q).seq.hdrLen.toNat = (encodeHeader Config.opRead reg).length := Xfer.start_hdrLen op q
  induction m with
  | zero => exact ⟨Xfer.start_atTime op q, rfl, by simp; rfl⟩
  | succ m ih =>
    obtain ⟨hat, hsent, hgot⟩ := ih (by omega)
    rcases Nat.lt_or_ge m (encodeHeader Config.opRead reg).length with hlt | hge
    · rw [foldl_take_succ (busInputs_read_header (by rw [hhdr]; exact hlt)), List.take_add_one]
      obtain ⟨hat', hsent', hgot'⟩ := hat.tick_header hlt [] 0
      refine ⟨hat', by rw [hsent', hsent], ?_⟩
      rw [hgot', hgot, Nat.sub_eq_zero_of_le (Nat.le_of_lt hlt), Nat.sub_eq_zero_of_le hlt]
    · have hin : m - (encodeHeader Config.opRead reg).length < chip.length := by omega
      have hb := List.getElem?_eq_getElem hin
      rw [foldl_take_succ (busInputs_read_payload rfl (by rw [hhdr]; exact hge) (by rw [hhdr]; exact hb))]
      obtain ⟨hsent', hgot'⟩ := hat.tick_payload_read hge hm rfl [] _
      refine ⟨hat.tick_payload hge hm [] _, ?_, ?_⟩
      · rw [hsent', hsent, List.take_of_length_le hge, List.take_of_length_le (by omega)]
      · rw [hgot', hgot, Nat.succ_sub hge, List.take_add_one, hb]
        rfl

end Sys2Proof.Machine

namespace Sys2Proof
open Machine

/-- Settles O19: `writeTicks`, and the sequencer idle at its end time alone. -/
theorem writeSequencerSendsBytesInOrder : Obligations.WriteSequencerSendsBytesInOrder := by
  intro reg q bytes got m op start whole hm x
  rw [List.length_append] at hm
  obtain ⟨hat, hsent, hgot⟩ := writeTicks reg q bytes got m hm
  have hidle := hat.idle_iff hm
  rw [← List.length_append] at hidle
  exact ⟨hsent, hgot, hat.failed, hidle⟩

/-- Settles O20: `readTicks`, and the sequencer idle at its end time alone. -/
theorem readSequencerReceivesBytesInOrder : Obligations.ReadSequencerReceivesBytesInOrder := by
  intro reg q chip got m op start hdr hm x
  obtain ⟨hat, hsent, hgot⟩ := readTicks reg q chip got m hm
  exact ⟨hsent, hgot, hat.failed, hat.idle_iff hm⟩

end Sys2Proof
end

section
/-! SUPPORT. The judgement of an identity by its four bytes (spec/41_controller_bringup.md R129), and the statement that
it is made in the spec's order. -/

namespace Sys2Proof.Machine

/-- A byte put before others, as a number. -/
theorem byte_append_toNat {w : Nat} (b : Byte) (x : BitVec w) : (b ++ x).toNat = b.toNat * 2 ^ w + x.toNat := by
  rw [BitVec.toNat_append, ← Nat.shiftLeft_add_eq_or_of_lt x.isLt, Nat.shiftLeft_eq]

/-- R54, D9: the identity's bytes are least significant first. -/
theorem le_four (b0 b1 b2 b3 : Byte) :
    le [b0, b1, b2, b3] = b0.toNat + 256 * b1.toNat + 65536 * b2.toNat + 16777216 * b3.toNat := by
  simp only [le]
  omega

/-- The identity word of four bytes, as a number. -/
theorem identity_toNat (b0 b1 b2 b3 : Byte) :
    (BitVec.ofNat 32 (le [b0, b1, b2, b3])).toNat =
      b0.toNat + 256 * b1.toNat + 65536 * b2.toNat + 16777216 * b3.toNat := by
  rw [BitVec.toNat_ofNat, le_four]
  omega

/-- R35: the high 24 bits of the identity are its bytes 3, 2 and 1. -/
theorem identity_high (b0 b1 b2 b3 : Byte) :
    (BitVec.ofNat 32 (le [b0, b1, b2, b3])).extractLsb' 8 24 = b3 ++ b2 ++ b1 := by
  apply BitVec.eq_of_toNat_eq
  have hbytes : (b3 ++ b2 ++ b1).toNat = (b3.toNat * 256 + b2.toNat) * 256 + b1.toNat := by
    rw [BitVec.toNat_append, ← Nat.shiftLeft_add_eq_or_of_lt b1.isLt, Nat.shiftLeft_eq, byte_append_toNat]
    rfl
  rw [hbytes, BitVec.extractLsb'_toNat, identity_toNat, Nat.shiftRight_eq_div_pow]
  omega

theorem identity_eq_zero_iff (b0 b1 b2 b3 : Byte) :
    BitVec.ofNat 32 (le [b0, b1, b2, b3]) = 0x00000000#32 ↔ b0 = 0#8 ∧ b1 = 0#8 ∧ b2 = 0#8 ∧ b3 = 0#8 := by
  rw [← BitVec.toNat_inj, identity_toNat]
  simp only [← BitVec.toNat_inj, BitVec.toNat_ofNat]
  omega

theorem identity_eq_ones_iff (b0 b1 b2 b3 : Byte) :
    BitVec.ofNat 32 (le [b0, b1, b2, b3]) = 0xFFFFFFFF#32 ↔ b0 = 0xFF#8 ∧ b1 = 0xFF#8 ∧ b2 = 0xFF#8 ∧ b3 = 0xFF#8 := by
  rw [← BitVec.toNat_inj, identity_toNat]
  simp only [← BitVec.toNat_inj, BitVec.toNat_ofNat]
  omega

end Sys2Proof.Machine

namespace Sys2Proof
open Machine

/-- Settles O22: the fault by definition; of a word the three tests in order, each as one about the four bytes. -/
theorem identityIsJudgedInOrder : Obligations.IdentityIsJudgedInOrder := by
  intro p
  refine ⟨rfl, fun b0 b1 b2 b3 => ?_⟩
  have hzero_iff := identity_eq_zero_iff b0 b1 b2 b3
  have hones_iff := identity_eq_ones_iff b0 b1 b2 b3
  rw [judge_some]
  refine ⟨fun hzero => if_pos (.inl (hzero_iff.mpr hzero)), fun hones => if_pos (.inr (hones_iff.mpr hones)),
    fun hzero hones => ?_⟩
  rw [if_neg (not_or.mpr ⟨mt hzero_iff.mp hzero, mt hones_iff.mp hones⟩), identity_high]
  exact if_congr eq_comm rfl rfl

end Sys2Proof
end

section
/-! SUPPORT. How `init` ends (spec/41_controller_bringup.md section 3), by the answers to its identity attempts, and the
statements about its outcomes. -/

namespace Sys2Proof.Machine

/-- R121: `init` is accepted in `Uninit`; it makes no transfer that could be too long. -/
theorem exec_init {s : State} (hidle : s.seq.phase = .idle) (hstate : s.ctl.state = .uninit) :
    exec .init s = .next (runInit s) :=
  exec_of_accepted hidle (by rw [hstate]; exact (uninit_admitted_iff .init).mpr rfl) trivial

theorem loopResult_of_verified {p : Config.Params} {b : Option (List Byte)} (h : judge p b = .verified) :
    loopResult p (judge p b) = none := by rw [h]; rfl

theorem loopResult_of_mismatch {p : Config.Params} {b : Option (List Byte)} (h : judge p b = .mismatch) :
    loopResult p (judge p b) = some .invalidDeviceId := by rw [h]; rfl

theorem loopResult_of_failed {p : Config.Params} {b : Option (List Byte)} (h : judge p b = .failed) :
    loopResult p (judge p b) = some (exhaustError p) := by rw [h]; rfl

/-- R132: an identity loop that gives an error ends `init` in the state it has reached, whose registers are these. -/
theorem BroughtUp.fails {s u : State} {tried : List (Option (List Byte))} (h : BroughtUp s u tried) (e : Error) :
    (endInit u (some e)).results = s.results ++ [Response.error e] ∧
      (endInit u (some e)).trace =
        s.trace ++ [Event.acquire true] ++ bringUpEvents s.par ++ identityEvents s.par tried ∧
      (endInit u (some e)).ctl = s.ctl ∧ (endInit u (some e)).initAttempt = tried.length ∧
      (endInit u (some e)).clk = .slow ∧ (endInit u (some e)).gpio = ⟨true, true⟩ ∧ (endInit u (some e)).rx = s.rx ∧
      (endInit u (some e)).par = s.par ∧ (endInit u (some e)).calls = s.calls ∧
      (endInit u (some e)).seq.phase = .idle := by
  refine ⟨?_, h.trace, h.ctl, h.initAttempt, h.clk, h.gpio, h.rx, h.par, h.calls, h.phase⟩
  rw [endInit, State.takeError_results, h.results]

/-- R131: a verified identity ends `init` with the fast clock and in `Ready`. -/
theorem BroughtUp.succeeds {s u : State} {tried : List (Option (List Byte))} (h : BroughtUp s u tried) :
    (endInit u none).results = s.results ++ [Response.ok .none] ∧
      (endInit u none).trace =
        s.trace ++ [Event.acquire true] ++ bringUpEvents s.par ++ identityEvents s.par tried ++ [Event.clkSet .fast] ∧
      (endInit u none).ctl = ⟨.ready, s.ctl.cfg, s.ctl.cfgValid⟩ ∧ (endInit u none).initAttempt = tried.length ∧
      (endInit u none).clk = .fast ∧ (endInit u none).gpio = ⟨true, true⟩ ∧ (endInit u none).rx = s.rx ∧
      (endInit u none).par = s.par ∧ (endInit u none).calls = s.calls ∧ (endInit u none).seq.phase = .idle := by
  refine ⟨?_, ?_, ?_, h.initAttempt, rfl, h.gpio, h.rx, h.par, h.calls, h.phase⟩
  · simp [endInit, h.results]
  · simp [endInit, h.trace]
  · simp [endInit, h.ctl]

/-- Two ways to write one trace have the same last event. -/
theorem last_event_eq {earlier pre : List Event} {e e' : Event} (h : earlier ++ [e] = pre ++ [e']) : e = e' :=
  List.singleton_inj.mp (List.append_inj' h rfl).2

theorem identityEvent_inj {p : Config.Params} {b b' : Option (List Byte)} (h : identityEvent p b = identityEvent p b') :
    b = b' := by
  simpa [identityEvent] using h

/-- R128: a trace up to the end of the identity loop ends in the last attempt's event. -/
theorem BroughtUp.trace_last {s u : State} {bad : List (Option (List Byte))} {b : Option (List Byte)}
    (h : BroughtUp s u (bad ++ [b])) : ∃ pre, u.trace = s.trace ++ pre ++ [identityEvent s.par b] := by
  obtain ⟨pre, hevents, -⟩ := identityEvents_append s.par bad b
  exact ⟨[.acquire true] ++ bringUpEvents s.par ++ pre, by rw [h.trace, hevents]; simp only [List.append_assoc]⟩

/-- R128: with its resources `init` makes at least one attempt. -/
theorem runInit_attempts_pos {s : State} (hres : s.answered 0 = true) : 1 ≤ (runInit s).initAttempt := by
  rcases runInit_cases s with ⟨hres', -⟩ | ⟨-, bad, b, u, hup, -, -, -, hrun⟩
  · rw [hres] at hres'; cases hres'
  · have hattempt : (runInit s).initAttempt = u.initAttempt := by
      rw [hrun]
      cases loopResult s.par (judge s.par b) <;> rfl
    rw [hattempt, hup.initAttempt, List.length_append]
    exact Nat.le_add_left 1 _

end Sys2Proof.Machine

namespace Sys2Proof
open Machine

/-- Settles O21: without the resources `init` is the query and its error. -/
theorem initWithoutResources : Obligations.InitWithoutResources := by
  intro s hidle hstate hres
  have hrun := runInit_unavailable hres
  refine ⟨runInit s, exec_init hidle hstate, ?_, runInit_unavailable_trace hres, ?_⟩ <;> rw [hrun]
  · rfl
  · exact ⟨rfl, rfl, rfl, rfl, rfl, rfl, rfl, rfl, rfl⟩

/-- Settles O23: `runInit_ends` at a last attempt that is verified. -/
theorem initSucceedsOnAVerifiedIdentity : Obligations.InitSucceedsOnAVerifiedIdentity := by
  intro s bad good hidle hstate hres hn hbad hgood hverified
  obtain ⟨u, hup, hrun⟩ := runInit_ends bad (some good) hres hn hbad hgood (by simp [hverified])
  rw [loopResult_of_verified hverified] at hrun
  obtain ⟨hresults, htrace, hctl, hattempt, hrest⟩ := hup.succeeds
  rw [List.length_append] at hattempt
  exact ⟨_, hrun ▸ exec_init hidle hstate, hresults, htrace, hctl, hattempt, hrest⟩

/-- Settles O24: `runInit_ends` at the last attempt allowed; there is one, because the parameters allow at least one. -/
theorem initGivesUpAfterItsAttempts : Obligations.InitGivesUpAfterItsAttempts := by
  intro s bad hidle hstate hres hn hbad
  have hpos := Config.Params.nIdAttempts_pos s.par
  obtain ⟨before, b, rfl⟩ : ∃ before b, bad = before ++ [b] := by
    rcases List.eq_nil_or_concat bad with rfl | ⟨before, b, rfl⟩
    · simp at hn; omega
    · exact ⟨before, b, List.concat_eq_append⟩
  rw [List.length_append, List.length_singleton] at hn
  obtain ⟨hb, hfailed⟩ := hbad before.length b (by simp)
  obtain ⟨u, hup, hrun⟩ := runInit_ends before b hres (by omega)
    (fun k x hx => hbad k x (by rw [List.getElem?_append_left (List.getElem?_eq_some_iff.mp hx).1]; exact hx))
    hb (fun _ => hn)
  rw [loopResult_of_failed hfailed] at hrun
  obtain ⟨hresults, htrace, hctl, hattempt, hrest⟩ := hup.fails (exhaustError s.par)
  rw [List.length_append, List.length_singleton, hn] at hattempt
  exact ⟨_, hrun ▸ exec_init hidle hstate, hresults, htrace, hctl, hattempt, hrest⟩

/-- Settles O25: `runInit_ends` at a last attempt that is a mismatch; and no other operation has an error of its own
(`runOp_error`). -/
theorem initRejectsAForeignIdentityAtOnce : Obligations.InitRejectsAForeignIdentityAtOnce := by
  constructor
  · intro s bad b hidle hstate hres hn hbad hb hzero hones hhigh
    have hmismatch : judge s.par (some b) = .mismatch := (judge_mismatch_iff _ _).mpr ⟨b, rfl, hzero, hones, hhigh⟩
    obtain ⟨u, hup, hrun⟩ := runInit_ends bad (some b) hres hn hbad hb (by simp [hmismatch])
    rw [loopResult_of_mismatch hmismatch] at hrun
    obtain ⟨hresults, htrace, hctl, hattempt, hclk, hgpio, hrx, hpar, hcalls, -⟩ := hup.fails .invalidDeviceId
    rw [List.length_append] at hattempt
    exact ⟨_, hrun ▸ exec_init hidle hstate, hresults, htrace, hctl, hattempt, hclk, hgpio, hrx, hpar, hcalls⟩
  · intro i s t h hresult
    obtain ⟨honly, -⟩ := eachErrorHasItsOperations i s t _ h hresult
    exact honly (by decide)

/-- Settles O26: by `runInit_cases`; the last event tells what the last attempt was and so how it was judged. -/
theorem readyOnlyAfterAMatchingIdentity : Obligations.ReadyOnlyAfterAMatchingIdentity := by
  intro s t h
  have hstate := exec_init_state h
  obtain ⟨-, -, -, rfl⟩ := (exec_next_iff _ _ _).mp h
  rw [show runOp .init s = runInit s from rfl]
  rcases runInit_cases s with ⟨hres, hrun⟩ | ⟨-, bad, b, u, hup, -, -, -, hrun⟩
  · constructor
    · rw [hrun, State.takeError_ctl, State.acquire_ctl, hstate]
      intro hready; cases hready
    · intro pre b htrace
      rw [runInit_unavailable_trace hres] at htrace
      cases last_event_eq htrace
  · obtain ⟨pre, hlast⟩ := hup.trace_last
    cases hj : judge s.par b with
    | verified =>
      rw [loopResult_of_verified hj] at hrun
      obtain ⟨b', rfl, hzero, hones, hhigh⟩ := (judge_verified_iff _ _).mp hj
      have htrace : (runInit s).trace = u.trace ++ [Event.clkSet .fast] := by simp [hrun, endInit]
      refine ⟨fun _ => ⟨pre, b', by rw [htrace, hlast]; simp, hhigh, hzero, hones⟩, fun pre' b'' htrace' => ?_⟩
      rw [htrace] at htrace'
      cases last_event_eq htrace'
    | mismatch =>
      rw [loopResult_of_mismatch hj] at hrun
      obtain ⟨-, -, hctl, -⟩ := hup.fails .invalidDeviceId
      have hnot : (runInit s).ctl.state ≠ .ready := by rw [hrun, hctl, hstate]; decide
      refine ⟨fun hready => absurd hready hnot, fun pre' b' htrace hword => ?_⟩
      obtain ⟨b'', rfl, hzero, hones, -⟩ := (judge_mismatch_iff _ _).mp hj
      rw [hrun, endInit, State.takeError_trace, hlast] at htrace
      obtain rfl := Option.some.inj (identityEvent_inj (last_event_eq htrace))
      exact absurd hword (not_or.mpr ⟨hzero, hones⟩)
    | failed =>
      rw [loopResult_of_failed hj] at hrun
      obtain ⟨hresults, -, hctl, -⟩ := hup.fails (exhaustError s.par)
      have hnot : (runInit s).ctl.state ≠ .ready := by rw [hrun, hctl, hstate]; decide
      refine ⟨fun hready => absurd hready hnot, fun _ _ _ _ => ⟨?_, hnot⟩⟩
      rw [hrun, hresults]
      rcases exhaustError_cases s.par with herr | herr <;> rw [herr]
      · exact .inr rfl
      · exact .inl rfl

/-- Settles O28: `init` is accepted whatever the environment answers; its results are those of `runInit_lastResult`, and
the rest is what `exec_changes` says of it. -/
theorem initAlwaysReturnsOneOfItsResults : Obligations.InitAlwaysReturnsOneOfItsResults := by
  intro s hidle hstate
  have hnext := exec_init hidle hstate
  obtain ⟨r, events, hdone⟩ := exec_changes hnext
  obtain ⟨r', hlast, hcases⟩ := runInit_lastResult s
  obtain rfl := Option.some.inj (hlast.symm.trans (State.lastResult_of_results hdone.results))
  obtain ⟨hcfg, hvalid⟩ := hdone.cfg (by simp)
  exact ⟨_, r', hnext, hdone.results, hcases, fun hres => ⟨runInit_attempts_pos hres, hdone.attempts rfl hres⟩,
    hcfg, hvalid, hdone.rx (by simp), hdone.par, hdone.calls⟩

end Sys2Proof
end

section
/-! SUPPORT. How `configure`, `rxEnable`, `isFrameReady` and `reset` end (spec/42_controller_runtime.md sections 1, 2, 3
and 5), and the statements about them. -/

namespace Sys2Proof.Machine

/-- A movement over the bus and then a transition leave everything but the transport's registers and `ctl.state`. -/
theorem BusMoved.sameButCtlState {s u t : State} {events : List Event} (h : BusMoved s u events)
    (hcfg : t.ctl.cfg = u.ctl.cfg ∧ t.ctl.cfgValid = u.ctl.cfgValid)
    (hrest : t.initAttempt = u.initAttempt ∧ t.rx = u.rx ∧ t.clk = u.clk ∧ t.gpio = u.gpio ∧ t.par = u.par ∧
      t.calls = u.calls) : SameButCtlState s t := by
  obtain ⟨hcfg, hvalid⟩ := hcfg
  obtain ⟨hattempt, hrx, hclk, hgpio, hpar, hcalls⟩ := hrest
  exact ⟨hcfg.trans (congrArg _ h.ctl), hvalid.trans (congrArg _ h.ctl), hattempt.trans h.initAttempt,
    hrx.trans h.rx, hclk.trans h.clk, hgpio.trans h.gpio, hpar.trans h.par, hcalls.trans h.calls⟩

/-! ## configure -/

/-- What stays in every outcome of `configure`: all but the transport's registers and the controller's. -/
theorem exec_configure_frame {cfg : ChipConfig} {s t : State} (h : exec (.configure cfg) s = .next t) :
    t.initAttempt = s.initAttempt ∧ t.rx = s.rx ∧ t.clk = s.clk ∧ t.gpio = s.gpio ∧ t.par = s.par ∧
      t.calls = s.calls ∧ t.seq.phase = .idle := by
  obtain ⟨r, events, hdone⟩ := exec_changes h
  obtain ⟨hattempt, hclk, hgpio, -⟩ := hdone.runTime (by simp)
  exact ⟨hattempt, hdone.rx (by simp), hclk, hgpio, hdone.par, hdone.calls, hdone.phase⟩

section
variable {s : State} (cfg : ChipConfig)

/-- R140: both writes accepted. -/
theorem runOp_configure_accepted (h0 : s.answered 0 = true) (h1 : s.answered 1 = true) :
    (runOp (.configure cfg) s).results = s.results ++ [Response.ok .none] ∧
      (runOp (.configure cfg) s).trace = s.trace ++ configureEvents cfg s ∧
      (runOp (.configure cfg) s).ctl = ⟨.configured, cfg, true⟩ := by
  rcases runConfigure_cases cfg s with ⟨h0', -⟩ | ⟨-, u, hmoved, -, ⟨-, hrun⟩ | ⟨h1', -⟩⟩
  · simp [h0] at h0'
  · simp [runOp, hrun, Run.finish, hmoved.results, hmoved.trace]
  · simp [h1] at h1'

/-- R140: the second write faulted. -/
theorem runOp_configure_second_faulted (h0 : s.answered 0 = true) (h1 : s.answered 1 = false) :
    (runOp (.configure cfg) s).results = s.results ++ [Response.error .transportError] ∧
      (runOp (.configure cfg) s).trace = s.trace ++ configureEvents cfg s ∧
      (runOp (.configure cfg) s).ctl = s.ctl := by
  rcases runConfigure_cases cfg s with ⟨h0', -⟩ | ⟨-, u, hmoved, -, ⟨h1', -⟩ | ⟨-, hrun⟩⟩
  · simp [h0] at h0'
  · simp [h1] at h1'
  · simp [runOp, hrun, Run.finish, hmoved.results, hmoved.trace, hmoved.ctl]

/-- R140: the first write faulted, the second not made. -/
theorem runOp_configure_first_faulted (h0 : s.answered 0 = false) :
    (runOp (.configure cfg) s).results = s.results ++ [Response.error .transportError] ∧
      (runOp (.configure cfg) s).trace = s.trace ++ (configureEvents cfg s).take 1 ∧
      (runOp (.configure cfg) s).ctl = s.ctl := by
  rcases runConfigure_cases cfg s with ⟨-, u, hmoved, -, hrun⟩ | ⟨h0', -⟩
  · simp [runOp, hrun, Run.finish, hmoved.results, hmoved.trace, hmoved.ctl]
  · simp [h0] at h0'

end

/-- R141, D19: two records with the same channel, PRF and preamble length make the same two writes. -/
theorem runOp_configure_congr {cfg cfg' : ChipConfig} (hchannel : cfg.channel = cfg'.channel) (hprf : cfg.prf = cfg'.prf)
    (hlen : cfg.preambleLen = cfg'.preambleLen) (s : State) :
    (runOp (.configure cfg) s).trace = (runOp (.configure cfg') s).trace ∧
      (runOp (.configure cfg) s).results = (runOp (.configure cfg') s).results ∧
      (runOp (.configure cfg) s).ctl.state = (runOp (.configure cfg') s).ctl.state := by
  simp only [runOp, runConfigure, hchannel, hprf, hlen]
  cases write s.par.regSysCfg (encSysCfg s.par cfg'.channel cfg'.prf) s with
  | raise e u => exact ⟨rfl, rfl, rfl⟩
  | ok _ u =>
    simp only [Run.andThen]
    cases write u.par.regPreambleCfg (encPreamble u.par cfg'.preambleLen) u with
    | raise e v => exact ⟨rfl, rfl, rfl⟩
    | ok _ v => exact ⟨rfl, rfl, rfl⟩

/-! ## The answers of a script -/

/-- An answer of the length asked for, next in the script, is what a read receives. -/
theorem received_scripted (s : State) (bytes : List Byte) (rest : List Reply) :
    State.received 0 bytes.length { s with script := .ok bytes :: rest } = some bytes :=
  congrArg some (fit_of_length _ bytes)

end Sys2Proof.Machine

namespace Sys2Proof
open Machine

/-- Settles O29: the three outcomes of `configure` each by its lemma, what stays by `exec_changes`, the refusal by its
row. -/
theorem configureWritesThenLatches : Obligations.ConfigureWritesThenLatches := by
  refine ⟨fun s cfg hidle hstate hfit => ?_, fun s cfg hidle hstate => ?_⟩
  · have hnext := exec_of_accepted (i := .configure cfg) hidle (by simp [admittedStates, hstate]) hfit
    refine ⟨_, hnext, fun h0 h1 => ?_, fun h0 h1 => ?_, fun h0 => ?_, exec_configure_frame hnext⟩
    · simpa only [configureEvents, h0, h1] using runOp_configure_accepted cfg h0 h1
    · simpa only [configureEvents, h0, h1] using runOp_configure_second_faulted cfg h0 h1
    · simpa only [configureEvents, h0, List.take_succ_cons, List.take_zero] using runOp_configure_first_faulted cfg h0
  · exact exec_not_admitted hidle (by simpa [admittedStates] using hstate)

/-- Settles O30: both operations are their own effects (`runOp_configure_congr`). -/
theorem unsentConfigFieldsReachNoPayload : Obligations.UnsentConfigFieldsReachNoPayload := by
  intro s t t' cfg cfg' hchannel hprf hlen h h'
  obtain ⟨-, -, -, rfl⟩ := (exec_next_iff _ _ _).mp h
  obtain ⟨-, -, -, rfl⟩ := (exec_next_iff _ _ _).mp h'
  exact runOp_configure_congr hchannel hprf hlen s

/-- Settles O31: by the answer to the one write. -/
theorem rxEnableWritesAndListens : Obligations.RxEnableWritesAndListens := by
  intro s hint hidle hstate hfit
  have hnext := exec_of_accepted (i := .rxEnable hint) hidle (by simpa [admittedStates] using hstate) hfit
  refine ⟨_, hnext, runOp_rxEnable_trace hint s, ?_⟩
  obtain ⟨u, hmoved, -, ⟨hres, hrun⟩ | ⟨hres, hrun⟩⟩ := runRxEnable_cases s
  · have hend : runOp (.rxEnable hint) s = (u.setCtlState .listening).respond (.ok .none) := by
      rw [runOp, hrun, Run.finish]
    rw [hend]
    refine ⟨fun _ => ⟨?_, rfl⟩, by simp [hres], hmoved.sameButCtlState ⟨rfl, rfl⟩ ⟨rfl, rfl, rfl, rfl, rfl, rfl⟩,
      hmoved.phase⟩
    simp [hmoved.results]
  · have hend : runOp (.rxEnable hint) s = u.takeError .transportError := by rw [runOp, hrun, Run.finish]
    rw [hend]
    refine ⟨by simp [hres], fun _ => ⟨?_, ?_⟩, hmoved.sameButCtlState ⟨rfl, rfl⟩ ⟨rfl, rfl, rfl, rfl, rfl, rfl⟩,
      hmoved.phase⟩
    · simp [hmoved.results]
    · simp [hmoved.ctl]

/-- Settles O33: `isFrameReady` is one movement and the bit of what it received. -/
theorem isFrameReadyReturnsTheBit : Obligations.IsFrameReadyReturnsTheBit := by
  intro s hidle hstate hfit
  have hnext := exec_of_accepted (i := .isFrameReady) hidle (by simp [admittedStates, hstate]) hfit
  obtain ⟨u, hmoved, -, hrun⟩ := runIsFrameReady_cases s
  rw [runOp, hrun, Run.finish] at hnext
  refine ⟨_, hnext, ?_, hmoved.trace, hmoved.sameButTransport, hmoved.phase⟩
  rw [State.respond_results, hmoved.results]
  cases s.received 0 s.par.lenSysStatus <;> rfl

/-- R148: the result and the event of `isFrameReady` when the script has the status bytes next. -/
theorem exec_isFrameReady_scripted {s t : State} {status : List Byte} {rest : List Reply}
    (hlen : status.length = s.par.lenSysStatus)
    (h : exec .isFrameReady { s with script := .ok status :: rest } = .next t) :
    t.results = s.results ++ [Response.ok (.bit ((le status).testBit s.par.frameReadyBit))] ∧
      t.trace = s.trace ++ [Event.busRead (encodeHeader 0x00 s.par.regSysStatus) s.par.lenSysStatus (some status)] := by
  obtain ⟨hidle, hrow, hfit, -⟩ := (exec_next_iff _ _ _).mp h
  obtain ⟨u, hnext, hresults, htrace, -⟩ := isFrameReadyReturnsTheBit _ hidle (List.mem_singleton.mp hrow) hfit
  obtain rfl := Host.Outcome.next.inj (hnext.symm.trans h)
  have hgot := received_scripted s status rest
  rw [hlen] at hgot
  simp only [hgot] at hresults htrace
  exact ⟨hresults, htrace⟩

/-- Settles O34: in each of the two states the result is the bit of the scripted status. -/
theorem onlyTheFrameReadyBitIsTested : Obligations.OnlyTheFrameReadyBitIsTested := by
  intro s t t' status status' rest hlen hlen' hbit h h'
  obtain ⟨hresults, htrace⟩ := exec_isFrameReady_scripted hlen h
  obtain ⟨hresults', -⟩ := exec_isFrameReady_scripted hlen' h'
  exact ⟨by rw [hresults, hresults', hbit], htrace⟩

/-- Settles O39: by the answer to the one write. -/
theorem softResetWritesWaitsAndReturnsToReady : Obligations.SoftResetWritesWaitsAndReturnsToReady := by
  intro s hidle hstate w
  have hnext := exec_of_accepted (i := .reset) hidle (mem_of_ne_uninit hstate) trivial
  obtain ⟨u, hmoved, -, ⟨hres, hrun⟩ | ⟨hres, hrun⟩⟩ := runReset_cases s
  · have hend : runOp .reset s = ((u.delay s.par.tSoftResetSettle).setCtlState .ready).respond (.ok .none) := by
      rw [runOp, hrun, Run.finish]
    rw [hend] at hnext
    refine ⟨_, hnext, fun _ => ⟨?_, ?_, rfl⟩, by simp [hres],
      hmoved.sameButCtlState ⟨rfl, rfl⟩ ⟨rfl, rfl, rfl, rfl, rfl, rfl⟩, hmoved.phase⟩
    · simp [hmoved.results]
    · simp [hmoved.trace, hres, w]
  · have hend : runOp .reset s = u.takeError .transportError := by rw [runOp, hrun, Run.finish]
    rw [hend] at hnext
    refine ⟨_, hnext, by simp [hres], fun _ => ⟨?_, ?_, ?_⟩,
      hmoved.sameButCtlState ⟨rfl, rfl⟩ ⟨rfl, rfl, rfl, rfl, rfl, rfl⟩, hmoved.phase⟩
    · simp [hmoved.results]
    · simp [hmoved.trace, hres, w]
    · simp [hmoved.ctl]

end Sys2Proof
end

section
/-! SUPPORT. How `readFrame` ends (spec/42_controller_runtime.md section 4): with the frame its transactions gave, or at
the first of them that faults; and the statements about it. -/

namespace Sys2Proof.Machine

/-! ## The values of the RawFrame registers -/

/-- R41: two bytes of the quality block are their little-endian value. -/
theorem le16At_toNat (q : List Byte) (off : Nat) : (le16At q off).toNat = le ((q.drop off).take 2) := by
  have hlt := le_lt ((q.drop off).take 2)
  have hpow : 256 ^ ((q.drop off).take 2).length ≤ 256 ^ 2 :=
    Nat.pow_le_pow_right (by decide) (List.length_take_le 2 _)
  rw [le16At, BitVec.toNat_ofNat]
  exact Nat.mod_eq_of_lt (Nat.lt_of_lt_of_le hlt hpow)

/-- R39: the timestamp of five bytes is their little-endian value. -/
theorem timestamp_toNat {t5 : List Byte} (h : t5.length = 5) : (BitVec.ofNat 40 (le t5)).toNat = le t5 := by
  have hlt := le_lt t5
  rw [h] at hlt
  rw [BitVec.toNat_ofNat]
  exact Nat.mod_eq_of_lt hlt

/-- R158: the quality of one byte is that byte. -/
theorem quality_of_byte {qb : List Byte} (h : qb.length = 1) : qb = [BitVec.ofNat 8 (le qb)] := by
  obtain ⟨b, rfl⟩ := List.length_eq_one_iff.mp h
  simp [le]

/-! ## The two ways `readFrame` ends -/

/-- R152: the end of a `readFrame` whose transactions gave `data`, `t5`, `q` and `qb`. -/
def State.frameRead (data t5 q qb : List Byte) (s u : State) : State :=
  ((u.setRx (loadRx s.par data t5 q qb s.rx)).setCtlState .configured).respond
    (.ok (.frame (frameOf (loadRx s.par data t5 q qb s.rx))))

/-- R159: the end of a `readFrame` one of whose transactions was faulted. -/
def State.frameLost (u : State) : State := u.loseRx.takeError .transportError

/-- Everything an accepted `readFrame` can do: the first `k` transactions are answered and the next is faulted, or all
are answered. -/
theorem runOp_readFrame_cases (s : State) :
    (∃ k u, k < 6 ∧ (∀ j, j < k → s.answered j = true) ∧ s.answered k = false ∧
      BusMoved s u ((readFrameEvents s).take (k + 1)) ∧ runOp .readFrame s = u.frameLost) ∨
    (∃ fi data t5 q qb u, s.received 0 s.par.lenRxFinfo = some fi ∧
      s.received 1 (clampLength (frameLength s.par fi)) = some data ∧ s.received 2 5 = some t5 ∧
      s.received 3 s.par.lenRxFqual = some q ∧ s.received 4 1 = some qb ∧ s.answered 5 = true ∧
      BusMoved s u (readFrameEvents s) ∧ runOp .readFrame s = s.frameRead data t5 q qb u) := by
  rcases runReadFrame_cases s with ⟨k, u, hk, hbefore, hfault, hmoved, -, hrun⟩ |
    ⟨fi, data, t5, q, qb, u, h0, h1, h2, h3, h4, h5, hmoved, -, hrun⟩
  · exact .inl ⟨k, u, hk, hbefore, hfault, hmoved, by rw [runOp, hrun]; rfl⟩
  · exact .inr ⟨fi, data, t5, q, qb, u, h0, h1, h2, h3, h4, h5, hmoved, by rw [runOp, hrun]; rfl⟩

/-- The first six answers are all there if the five reads received theirs and the write was accepted. -/
theorem answered_of_all_received {s : State} {n0 n1 n2 n3 n4 : Nat} {b0 b1 b2 b3 b4 : List Byte}
    (h0 : s.received 0 n0 = some b0) (h1 : s.received 1 n1 = some b1) (h2 : s.received 2 n2 = some b2)
    (h3 : s.received 3 n3 = some b3) (h4 : s.received 4 n4 = some b4) (h5 : s.answered 5 = true) {k : Nat} (hk : k < 6) :
    s.answered k = true := by
  interval_cases k
  · exact State.answered_of_received h0
  · exact State.answered_of_received h1
  · exact State.answered_of_received h2
  · exact State.answered_of_received h3
  · exact State.answered_of_received h4
  · exact h5

/-- The first fault among the coming answers is one. -/
theorem first_fault_unique {s : State} {j k : Nat} (hj : s.answered j = false) (hk : s.answered k = false)
    (hbeforej : ∀ i, i < j → s.answered i = true) (hbeforek : ∀ i, i < k → s.answered i = true) : j = k := by
  rcases Nat.lt_trichotomy j k with h | h | h
  · simp [hbeforek j h] at hj
  · exact h
  · simp [hbeforej k h] at hk

/-- R159: with a first fault at transaction `k`, `readFrame` ends there. -/
theorem runOp_readFrame_faulted {s : State} {k : Nat} (hk : k < 6) (hbefore : ∀ j, j < k → s.answered j = true)
    (hfault : s.answered k = false) :
    ∃ u, BusMoved s u ((readFrameEvents s).take (k + 1)) ∧ runOp .readFrame s = u.frameLost := by
  rcases runOp_readFrame_cases s with ⟨k', u, -, hbefore', hfault', hmoved, hrun⟩ |
    ⟨fi, data, t5, q, qb, u, h0, h1, h2, h3, h4, h5, -⟩
  · obtain rfl := first_fault_unique hfault hfault' hbefore hbefore'
    exact ⟨u, hmoved, hrun⟩
  · rw [answered_of_all_received h0 h1 h2 h3 h4 h5 hk] at hfault
    cases hfault

/-- R152: with all six transactions answered, `readFrame` ends with what they gave. -/
theorem runOp_readFrame_answered {s : State} {fi data t5 q qb : List Byte}
    (h0 : s.received 0 s.par.lenRxFinfo = some fi)
    (h1 : s.received 1 (clampLength (frameLength s.par fi)) = some data) (h2 : s.received 2 5 = some t5)
    (h3 : s.received 3 s.par.lenRxFqual = some q) (h4 : s.received 4 1 = some qb) (h5 : s.answered 5 = true) :
    ∃ u, BusMoved s u (readFrameEvents s) ∧ runOp .readFrame s = s.frameRead data t5 q qb u := by
  rcases runOp_readFrame_cases s with ⟨k, u, hk, -, hfault, -⟩ |
    ⟨fi', data', t5', q', qb', u, h0', h1', h2', h3', h4', -, hmoved, hrun⟩
  · rw [answered_of_all_received h0 h1 h2 h3 h4 h5 hk] at hfault
    cases hfault
  · obtain rfl := Option.some.inj (h0.symm.trans h0')
    obtain rfl := Option.some.inj (h1.symm.trans h1')
    obtain rfl := Option.some.inj (h2.symm.trans h2')
    obtain rfl := Option.some.inj (h3.symm.trans h3')
    obtain rfl := Option.some.inj (h4.symm.trans h4')
    exact ⟨u, hmoved, hrun⟩

/-! ## A frame-info answer put first in the script (R219) -/

/-- Answers after the first do not depend on what the first is. -/
theorem received_after_scripted (s : State) (r r' : Reply) (rest : List Reply) (k n : Nat) :
    State.received (k + 1) n { s with script := r :: rest } = State.received (k + 1) n { s with script := r' :: rest } :=
  rfl

theorem answered_after_scripted (s : State) (r r' : Reply) (rest : List Reply) (k : Nat) :
    State.answered (k + 1) { s with script := r :: rest } = State.answered (k + 1) { s with script := r' :: rest } :=
  rfl

/-- R155: every reported length of 127 or more is read as 127. -/
theorem clampLength_of_ge {n : Nat} (h : 127 ≤ n) : clampLength n = 127 := Nat.min_eq_right h

/-- R219: how `readFrame` ends with a frame-info answer of 127 bytes or more, by the answers after it, which are those
of any other script that goes on the same way. -/
theorem runOp_readFrame_scripted {s : State} {fi fi' : List Byte} {rest : List Reply}
    (hlen : fi.length = s.par.lenRxFinfo) (hlen' : fi'.length = s.par.lenRxFinfo)
    (h127 : 127 ≤ frameLength s.par fi) (h127' : 127 ≤ frameLength s.par fi') :
    (∃ u u' : State, u.ctl = s.ctl ∧ u'.ctl = s.ctl ∧ u.results = s.results ∧ u'.results = s.results ∧
      runOp .readFrame { s with script := .ok fi :: rest } = u.frameLost ∧
      runOp .readFrame { s with script := .ok fi' :: rest } = u'.frameLost) ∨
    (∃ data t5 q qb, ∃ u u' : State, u.ctl = s.ctl ∧ u'.ctl = s.ctl ∧ u.results = s.results ∧ u'.results = s.results ∧
      runOp .readFrame { s with script := .ok fi :: rest } = s.frameRead data t5 q qb u ∧
      runOp .readFrame { s with script := .ok fi' :: rest } = s.frameRead data t5 q qb u') := by
  have h0 := received_scripted s fi rest
  have h0' := received_scripted s fi' rest
  rw [hlen] at h0
  rw [hlen'] at h0'
  rcases runOp_readFrame_cases { s with script := .ok fi :: rest } with ⟨k, u, hk, hbefore, hfault, hmoved, hrun⟩ |
    ⟨fi1, data, t5, q, qb, u, h0'', h1, h2, h3, h4, h5, hmoved, hrun⟩
  · left
    have hanswered : ∀ j, State.answered j { s with script := .ok fi :: rest } =
        State.answered j { s with script := .ok fi' :: rest } := by
      intro j
      cases j with
      | zero => rfl
      | succ j => exact answered_after_scripted s _ _ rest j
    rw [hanswered] at hfault
    obtain ⟨u', hmoved', hrun'⟩ := runOp_readFrame_faulted hk (fun j hj => by rw [← hanswered]; exact hbefore j hj) hfault
    exact ⟨u, u', hmoved.ctl, hmoved'.ctl, hmoved.results, hmoved'.results, hrun, hrun'⟩
  · right
    obtain rfl := Option.some.inj (h0.symm.trans h0'')
    rw [clampLength_of_ge h127] at h1
    rw [← clampLength_of_ge h127'] at h1
    rw [received_after_scripted s (.ok fi) (.ok fi') rest] at h1 h2 h3 h4
    rw [answered_after_scripted s (.ok fi) (.ok fi') rest] at h5
    obtain ⟨u', hmoved', hrun'⟩ := runOp_readFrame_answered (s := { s with script := .ok fi' :: rest }) h0' h1 h2 h3 h4 h5
    exact ⟨data, t5, q, qb, u, u', hmoved.ctl, hmoved'.ctl, hmoved.results, hmoved'.results, hrun, hrun'⟩

end Sys2Proof.Machine

namespace Sys2Proof
open Machine

/-- Settles O35: the end that `runOp_readFrame_answered` gives, register by register. -/
theorem readFrameDeliversTheFrame : Obligations.ReadFrameDeliversTheFrame := by
  intro s fi data t5 q qb hidle hstate hfit h0 h1 h2 h3 h4 h5
  have hnext := exec_of_accepted (i := .readFrame) hidle (by simp [admittedStates, hstate]) hfit
  obtain ⟨u, hmoved, hrun⟩ := runOp_readFrame_answered h0 h1 h2 h3 h4 h5
  rw [hrun] at hnext
  have hdata := State.received_length h1
  have hcap : data.length ≤ 127 := by rw [hdata]; exact Nat.min_le_right _ 127
  have hlen : (s.frameRead data t5 q qb u).rx.len.toNat = data.length := toNat_ofNat_length data hcap
  refine ⟨_, hnext, hmoved.trace, ?_, ?_, hlen.trans hdata, hlen.trans_le hcap, ?_,
    timestamp_toNat (State.received_length h2), le16At_toNat q _, le16At_toNat q _, le16At_toNat q _, rfl, rfl,
    quality_of_byte (State.received_length h4), hmoved.initAttempt, hmoved.clk, hmoved.gpio, hmoved.par, hmoved.calls,
    hmoved.phase⟩
  · simp only [State.frameRead, State.respond_results, State.setCtlState_results, State.setRx_results, hmoved.results,
      frameOf_loadRx _ data _ _ _ _ hcap]
    rfl
  · simp [State.frameRead, hmoved.ctl]
  · rw [hlen]
    exact storeFrame_toList data s.rx.buf hcap

/-- Settles O36: the end that `runOp_readFrame_faulted` gives. -/
theorem readFrameStopsAtTheFirstFault : Obligations.ReadFrameStopsAtTheFirstFault := by
  intro s k hidle hstate hfit hk hbefore hfault
  have hnext := exec_of_accepted (i := .readFrame) hidle (by simp [admittedStates, hstate]) hfit
  obtain ⟨u, hmoved, hrun⟩ := runOp_readFrame_faulted hk hbefore hfault
  rw [hrun] at hnext
  refine ⟨_, hnext, ?_, hmoved.trace, hmoved.ctl, hmoved.initAttempt, hmoved.clk, hmoved.gpio, hmoved.par, hmoved.calls,
    hmoved.phase⟩
  rw [State.frameLost, State.takeError_results, State.loseRx_results, hmoved.results]

/-- Settles O37: by the two ways both end (`runOp_readFrame_scripted`). -/
theorem clampingIsSilent : Obligations.ClampingIsSilent := by
  intro s t t' fi fi' rest hlen hlen' h127 h127' h h'
  obtain ⟨-, -, -, rfl⟩ := (exec_next_iff _ _ _).mp h
  obtain ⟨-, -, -, rfl⟩ := (exec_next_iff _ _ _).mp h'
  rcases runOp_readFrame_scripted (rest := rest) hlen hlen' h127 h127' with
    ⟨u, u', hctl, hctl', hresults, hresults', hrun, hrun'⟩ |
    ⟨data, t5, q, qb, u, u', hctl, hctl', hresults, hresults', hrun, hrun'⟩ <;> rw [hrun, hrun']
  · refine ⟨?_, hctl.trans hctl'.symm, fun f hframe => ?_⟩
    · simp [State.frameLost, hresults, hresults']
    · simp [State.frameLost, hresults] at hframe
  · refine ⟨?_, ?_, fun _ _ => rfl⟩
    · simp [State.frameRead, hresults, hresults']
    · simp [State.frameRead, hctl, hctl']

end Sys2Proof
end

section
/-! SUPPORT. One turn of the worker cycle (spec/30_encoding.md R86, spec/70_reset_and_hazards.md R225) call by call, and
the statement that each is admitted. -/

namespace Sys2Proof.Machine

/-- An accepted operation completes, and what it then has done is what `exec_changes` says. -/
theorem exec_completes {i : Instr} {s : State} (hidle : s.seq.phase = .idle) (hrow : s.ctl.state ∈ admittedStates i)
    (hfit : LengthsFit s.par i) : ∃ t r events, exec i s = .next t ∧ Completed i s t r events := by
  have hnext := exec_of_accepted hidle hrow hfit
  obtain ⟨r, events, hdone⟩ := exec_changes hnext
  exact ⟨_, r, events, hnext, hdone⟩

/-- R30: after an operation `ctl.state` is as it was or the one of the transition table. -/
theorem Completed.state_cases {i : Instr} {s t : State} {r : Response} {events : List Event}
    (hdone : Completed i s t r events) : t.ctl.state = s.ctl.state ∨ t.ctl.state = transition i s.ctl.state := by
  cases r with
  | ok v => exact .inr (hdone.stateOnOk v rfl)
  | error e => exact .inl (by rw [hdone.ctlOnError e rfl])

/-- The last call of a turn: `readFrame`, where the block listens. -/
theorem exec_readFrame_in_turn {s : State} (hidle : s.seq.phase = .idle) (hstate : s.ctl.state = .listening)
    (hfit : LengthsFit s.par .readFrame) :
    ∃ t, exec .readFrame s = .next t ∧ (t.ctl.state = .configured ∨ t.ctl.state = .listening) ∧
      t.ctl.cfg = s.ctl.cfg := by
  obtain ⟨t, r, events, hnext, hdone⟩ := exec_completes hidle (by simp [admittedStates, hstate]) hfit
  obtain ⟨hcfg, -⟩ := hdone.cfg (by simp)
  refine ⟨t, hnext, ?_, hcfg⟩
  rcases hdone.state_cases with h | h
  · exact .inr (h.trans hstate)
  · exact .inl h

/-- The turn from `isFrameReady` on: what it answers decides only whether there is a `readFrame`. -/
theorem isFrameReady_in_turn {s : State} (hidle : s.seq.phase = .idle) (hstate : s.ctl.state = .listening)
    (hfit : LengthsFit s.par .readFrame) :
    ∃ u, exec .isFrameReady s = .next u ∧ u.seq.phase = .idle ∧ u.ctl.state = .listening ∧
      u.ctl.cfg = s.ctl.cfg ∧ LengthsFit u.par .readFrame := by
  have ⟨_, _, hstatus⟩ := hfit
  obtain ⟨u, r, events, hnext, hdone⟩ := exec_completes (i := .isFrameReady) hidle (by simp [admittedStates, hstate]) hstatus
  obtain ⟨hcfg, -⟩ := hdone.cfg (by simp)
  have hlisten : u.ctl.state = .listening := by
    rcases hdone.state_cases with h | h <;> exact h.trans hstate
  exact ⟨u, hnext, hdone.phase, hlisten, hcfg, by rw [hdone.par]; exact hfit⟩

end Sys2Proof.Machine

namespace Sys2Proof
open Machine

/-- Settles O49: `rxEnable` leaves the block listening or ends the turn where it was called; the calls after it are
admitted in `Listening`. -/
theorem workerCycleIsAlwaysAdmitted : Obligations.WorkerCycleIsAlwaysAdmitted := by
  intro s hidle hstate hfitRx hfitRead
  obtain ⟨s1, r1, _, hnext1, hdone1⟩ := exec_completes hidle (by simpa [admittedStates] using hstate) hfitRx
  have hcfg1 := (hdone1.cfg (by simp)).1
  have hlast1 := State.lastResult_of_results hdone1.results
  cases r1 with
  | error e =>
    refine ⟨s1, by simp only [workerTurn, hnext1, hlast1], ?_, hcfg1⟩
    rw [hdone1.ctlOnError e rfl]
    exact hstate
  | ok v =>
    have hlisten1 : s1.ctl.state = .listening := hdone1.stateOnOk v rfl
    rw [← hdone1.par] at hfitRead
    obtain ⟨s2, hnext2, hidle2, hlisten2, hcfg2, hfit2⟩ := isFrameReady_in_turn hdone1.phase hlisten1 hfitRead
    simp only [workerTurn, hnext1, hlast1, hnext2]
    split
    · obtain ⟨s3, hnext3, hstate3, hcfg3⟩ := exec_readFrame_in_turn hidle2 hlisten2 hfit2
      exact ⟨s3, hnext3, hstate3, hcfg3.trans (hcfg2.trans hcfg1)⟩
    · exact ⟨s2, rfl, .inr hlisten2, hcfg2.trans hcfg1⟩

end Sys2Proof
end

section
/-! SUPPORT. What every parameter set meets (spec/00_scope.md section 4, spec/93_implementation_defined.md U16), the
function `dB10` as a rising step function (spec/42_controller_runtime.md R160), and the statements about both. -/

namespace Sys2Proof.Machine

/-- A table of non-empty payloads, with a non-empty payload for every other operand, has no empty one. -/
theorem tableAt_ne_nil {α : Type} [DecidableEq α] (k : α) {other : List Byte} (hother : other ≠ [])
    {table : List (α × List Byte)} (htable : ∀ e ∈ table, e.2 ≠ []) : tableAt k other table ≠ [] := by
  induction table with
  | nil => exact hother
  | cons e table ih =>
    rw [tableAt]
    split
    · exact htable e List.mem_cons_self
    · exact ih fun e' he' => htable e' (List.mem_cons_of_mem e he')

/-- A step function whose values never fall is never below its value under the first threshold, and never falls. -/
theorem stepLookup_mono {steps : List (Nat × Metric)} {lastT : Nat} {below : Metric}
    (hrise : stepsRise lastT below steps = true) {x y : Nat} (hxy : x ≤ y) :
    below ≤ stepLookup below y steps ∧ stepLookup below x steps ≤ stepLookup below y steps := by
  induction steps generalizing lastT below with
  | nil => exact ⟨le_refl _, le_refl _⟩
  | cons step rest ih =>
    obtain ⟨t, v⟩ := step
    simp only [stepsRise, Bool.and_eq_true, decide_eq_true_eq] at hrise
    obtain ⟨⟨-, hle⟩, hrest⟩ := hrise
    obtain ⟨hbelow, hmono⟩ := ih hrest
    simp only [stepLookup]
    by_cases hy : t ≤ y
    · rw [if_pos hy]
      refine ⟨hle.trans hbelow, ?_⟩
      split
      · exact hmono
      · exact hle.trans hbelow
    · rw [if_neg hy, if_neg (by omega)]
      exact ⟨le_refl _, le_refl _⟩

/-- R160: from 1 on `dB10` is the step function alone. -/
theorem dB10_of_pos (p : Config.Params) {x : Nat} (h : 1 ≤ x) : dB10 p x = stepLookup 0 x p.dB10Steps :=
  if_neg (by omega)

end Sys2Proof.Machine

namespace Sys2Proof
open Machine

/-- R6, U16: the constraints a parameter set carries, as one conjunction. -/
theorem params_okay (p : Config.Params) :
    1 ≤ p.nIdAttempts ∧ p.tResetHold < p.tResetSettle ∧ p.clkSlow < p.clkFast ∧ 1 ≤ p.lenSysStatus ∧
      p.frameReadyBit < 8 * p.lenSysStatus ∧ p.flenLsb + 11 ≤ 8 * p.lenRxFinfo ∧ p.cirPwrOff + 2 ≤ p.lenRxFqual ∧
      p.fpAmplOff + 2 ≤ p.lenRxFqual ∧ p.fpIndexOff + 2 ≤ p.lenRxFqual ∧ 127 ≤ p.maxXferLen ∧
      ((∀ e ∈ p.encSysCfgTable, e.2 ≠ []) ∧ p.encSysCfgElse ≠ []) ∧
      ((∀ e ∈ p.encPreambleTable, e.2 ≠ []) ∧ p.encPreambleElse ≠ []) ∧ p.rxEnableCmd ≠ [] ∧ p.dB10Ok = true := by
  have h := p.okay
  simp only [Config.RawParams.ok, Bool.and_eq_true, decide_eq_true_eq, List.all_eq_true, Bool.not_eq_true',
    List.isEmpty_eq_false_iff, and_assoc] at h
  simpa only [ne_eq, and_assoc] using h

/-- Settles O50: the constraints the type carries; the two payload encoders by their tables. -/
theorem parameterSetsMeetTheirConstraints : Obligations.ParameterSetsMeetTheirConstraints := by
  intro p
  obtain ⟨hattempts, hreset, hclk, hstatus, hready, hflen, hcir, hampl, hindex, hmax, ⟨hsysTable, hsysElse⟩,
    ⟨hpreTable, hpreElse⟩, hcmd, -⟩ := params_okay p
  exact ⟨hattempts, hreset, hclk, hstatus, hready, by omega, hflen, hcir, hampl, hindex, hmax, hcmd,
    fun channel prf => tableAt_ne_nil (channel, prf) hsysElse hsysTable, fun len => tableAt_ne_nil len hpreElse hpreTable⟩

/-- Settles O38: the five values are the type's; from 1 on `dB10` is a step function whose values never fall. -/
theorem decibelsExactAndNonDecreasing : Obligations.DecibelsExactAndNonDecreasing := by
  intro p
  obtain ⟨-, -, -, -, -, -, -, -, -, -, -, -, -, hdB⟩ := params_okay p
  simp only [Config.RawParams.dB10Ok, Bool.and_eq_true, decide_eq_true_eq] at hdB
  obtain ⟨⟨⟨⟨⟨hrise, h1⟩, h10⟩, h100⟩, h1000⟩, h10000⟩ := hdB
  refine ⟨h1, h10, h100, h1000, h10000, fun x y hx hxy => ?_⟩
  rw [dB10_of_pos p hx, dB10_of_pos p (hx.trans hxy)]
  obtain ⟨-, hmono⟩ := stepLookup_mono hrise hxy
  exact hmono

end Sys2Proof
end
